-- ==== Sys2Proof/Word.lean ====
section
/-! DEFINITION. The widths of the block (spec/00_scope.md R6): 8-bit registers and memory bytes, 12-bit addresses,
16-bit instruction words, 4-bit fields. -/

namespace Sys2Proof

/-- A general register, a timer or a byte of RAM (10_state.md R20, R31, R32; 20_memory.md R60). -/
abbrev Byte := BitVec 8

/-- A 12-bit address: `PC`, `I`, `nnn`, a stack entry (00_scope.md R6 `ALEN`). -/
abbrev Addr := BitVec 12

/-- A 16-bit instruction word (30_encoding.md R90). -/
abbrev Word := BitVec 16

/-- A hexadecimal digit of an instruction word: `opcode`, `n`, a key index (30_encoding.md R91). -/
abbrev Nibble := BitVec 4

/-- The index of one of the sixteen general registers, the field `x` or `y` (10_state.md R20, 30_encoding.md R93). -/
abbrev Reg := BitVec 4

/-- `VF`, the register that some instructions overwrite with a flag (10_state.md R21). -/
abbrev Reg.F : Reg := 0xF#4

/-- The sixteen key inputs, bit k = key k (10_state.md R40, R41). -/
abbrev Keys := BitVec 16

/-- The 64 x 32 framebuffer: bit k is the cell `FB[k]` (10_state.md R34). -/
abbrev Framebuffer := BitVec 2048

end Sys2Proof
end

