-- ==== Sys2Proof/Config.lean ====
section
/-! DEFINITION. What the spec fixes as parameters of the block (spec/00_scope.md R6), the reset contents of RAM, and
the free values: opaque constants about which nothing can be proved. -/

namespace Sys2Proof.Config

/-- `PROGRAM_BASE`: the reset value of `PC` and the address the loader places a ROM at (00_scope.md R6). -/
def programBase : Addr := 0x200#12

/-- `ROM_MAX`: the largest ROM, 4096 - 512 bytes (00_scope.md R6). -/
def romMax : Nat := 3584

/-- `RAM_SIZE` (00_scope.md R6, 20_memory.md R60). -/
def ramSize : Nat := 4096

/-- `STACK_DEPTH` (00_scope.md R6). -/
def stackDepth : Nat := 16

/-- `FONT_BASE`: the address of glyph 0 (20_memory.md R67, decision D5). `Reset` and `FX29` both use it. -/
def fontBase : Addr := 0x000#12

/-- `FONT_DATA`: the sixteen 5-byte glyphs (20_memory.md R66, decision D6). -/
def fontData : List Byte :=
  [0xF0, 0x90, 0x90, 0x90, 0xF0] ++ -- 0
  [0x20, 0x60, 0x20, 0x20, 0x70] ++ -- 1
  [0xF0, 0x10, 0xF0, 0x80, 0xF0] ++ -- 2
  [0xF0, 0x10, 0xF0, 0x10, 0xF0] ++ -- 3
  [0x90, 0x90, 0xF0, 0x10, 0x10] ++ -- 4
  [0xF0, 0x80, 0xF0, 0x10, 0xF0] ++ -- 5
  [0xF0, 0x80, 0xF0, 0x90, 0xF0] ++ -- 6
  [0xF0, 0x10, 0x20, 0x40, 0x40] ++ -- 7
  [0xF0, 0x90, 0xF0, 0x90, 0xF0] ++ -- 8
  [0xF0, 0x90, 0xF0, 0x10, 0xF0] ++ -- 9
  [0xF0, 0x90, 0xF0, 0x90, 0x90] ++ -- A
  [0xE0, 0x90, 0xE0, 0x90, 0xE0] ++ -- B
  [0xF0, 0x80, 0x80, 0x80, 0xF0] ++ -- C
  [0xE0, 0x90, 0x90, 0x90, 0xE0] ++ -- D
  [0xF0, 0x80, 0xF0, 0x80, 0xF0] ++ -- E
  [0xF0, 0x80, 0xF0, 0x80, 0x80]    -- F

/-- What the byte at address `a` holds after `Reset` (70_reset_and_hazards.md R260, first two lines): the font at
`FONT_BASE .. FONT_BASE + 79`, 0 everywhere else. -/
def resetByte (a : Nat) : Byte :=
  if fontBase.toNat ≤ a then fontData.getD (a - fontBase.toNat) 0 else 0

/-- The key inputs the input collaborator shows at the n-th sample that no pending event supplies: a FREE VALUE
(10_state.md R41; 93_implementation_defined.md U18 "any value at every step that samples them"). Log 2. -/
opaque freeKeys : Nat → Keys

/-- The byte the random source supplies at the n-th sample that no pending event supplies: a FREE VALUE (10_state.md
R42; 93_implementation_defined.md U17 "any value at every CXNN step"). Log 3. -/
opaque freeRnd : Nat → Byte

/-- `TONE_SAMPLES`, which the spec leaves OPEN (00_scope.md R6, decision D17): the audio sink's tone length. No rule
of the block uses it. Log 12. -/
opaque toneSamples : Nat

end Sys2Proof.Config
end

