-- ==== Sys2Proof/Syntax.lean ====
section
/-! DEFINITION. The 34 instructions (spec/30_encoding.md R97, R98), one constructor per row of
spec/opcode_table.json, with exactly the operands rule R97 gives them. Don't-care digits (R96) are no operands. -/

namespace Sys2Proof

/-- The instructions of 30_encoding.md R98, in the table's order. Every operand is a field of the word (R91), so every
term of this type is well-formed: no operand can be out of range. -/
inductive Instr where
  /-- `00E0` CLS (43_display.md R190) -/
  | cls
  /-- `00EE` RET (40_flow.md R122) -/
  | ret
  /-- `1NNN` JMP nnn (40_flow.md R123) -/
  | jmp (nnn : Addr)
  /-- `2NNN` CALL nnn (40_flow.md R124) -/
  | call (nnn : Addr)
  /-- `3XNN` SE Vx, nn (40_flow.md R126) -/
  | seImm (x : Reg) (nn : Byte)
  /-- `4XNN` SNE Vx, nn (40_flow.md R127) -/
  | sneImm (x : Reg) (nn : Byte)
  /-- `5XY0` SE Vx, Vy (40_flow.md R128) -/
  | seReg (x y : Reg)
  /-- `6XNN` LD Vx, nn (41_alu.md R140) -/
  | ldImm (x : Reg) (nn : Byte)
  /-- `7XNN` ADD Vx, nn (41_alu.md R141) -/
  | addImm (x : Reg) (nn : Byte)
  /-- `8XY0` LD Vx, Vy (41_alu.md R142) -/
  | ldReg (x y : Reg)
  /-- `8XY1` OR Vx, Vy (41_alu.md R143) -/
  | orReg (x y : Reg)
  /-- `8XY2` AND Vx, Vy (41_alu.md R144) -/
  | andReg (x y : Reg)
  /-- `8XY3` XOR Vx, Vy (41_alu.md R145) -/
  | xorReg (x y : Reg)
  /-- `8XY4` ADD Vx, Vy (41_alu.md R147) -/
  | addReg (x y : Reg)
  /-- `8XY5` SUB Vx, Vy (41_alu.md R148) -/
  | sub (x y : Reg)
  /-- `8XY6` SHR Vx (41_alu.md R149) -/
  | shr (x : Reg)
  /-- `8XY7` SUBN Vx, Vy (41_alu.md R150) -/
  | subn (x y : Reg)
  /-- `8XYE` SHL Vx (41_alu.md R151) -/
  | shl (x : Reg)
  /-- `9XY0` SNE Vx, Vy (40_flow.md R129) -/
  | sneReg (x y : Reg)
  /-- `ANNN` LD I, nnn (42_index_memory.md R170) -/
  | ldI (nnn : Addr)
  /-- `BNNN` JMP V0, nnn (40_flow.md R125) -/
  | jmpV0 (nnn : Addr)
  /-- `CXNN` RND Vx, nn (41_alu.md R155) -/
  | rnd (x : Reg) (nn : Byte)
  /-- `DXYN` DRW Vx, Vy, n (43_display.md R191) -/
  | drw (x y : Reg) (n : Nibble)
  /-- `EX9E` SKP Vx (44_keypad_timers.md R200) -/
  | skp (x : Reg)
  /-- `EXA1` SKNP Vx (44_keypad_timers.md R201) -/
  | sknp (x : Reg)
  /-- `FX07` LD Vx, DT (44_keypad_timers.md R203) -/
  | ldFromDt (x : Reg)
  /-- `FX0A` LD Vx, K (44_keypad_timers.md R202) -/
  | ldKey (x : Reg)
  /-- `FX15` LD DT, Vx (44_keypad_timers.md R204) -/
  | ldDt (x : Reg)
  /-- `FX18` LD ST, Vx (44_keypad_timers.md R205) -/
  | ldSt (x : Reg)
  /-- `FX1E` ADD I, Vx (42_index_memory.md R171) -/
  | addI (x : Reg)
  /-- `FX29` LD F, Vx (42_index_memory.md R172) -/
  | ldFont (x : Reg)
  /-- `FX33` BCD Vx (42_index_memory.md R173) -/
  | bcd (x : Reg)
  /-- `FX55` LD [I], Vx (42_index_memory.md R174) -/
  | store (x : Reg)
  /-- `FX65` LD Vx, [I] (42_index_memory.md R175) -/
  | load (x : Reg)
  deriving DecidableEq, Repr

end Sys2Proof
end

