-- ==== Sys2Proof/WellFormed.lean ====
section
/-! DEFINITION. Well-formedness. A term of `Instr` cannot be ill-formed (its operands have the widths of their fields),
so the checks stand on what can be ill-formed: an instruction WORD, held against the opcode table of
spec/30_encoding.md R98, its don't-care digits (R96), and what a loader may place (70_reset_and_hazards.md R266). -/

namespace Sys2Proof

/-- One row of the opcode map (30_encoding.md R98): `w` selects it when `w & mask = pat`. `ignored` are the
don't-care bits of R96. -/
structure OpcodeRow where
  pat     : Word
  mask    : Word
  ignored : Word
  deriving DecidableEq, Repr

/-- `w & mask = match` (30_encoding.md R98). -/
def OpcodeRow.selects (r : OpcodeRow) (w : Word) : Bool := w &&& r.mask = r.pat

/-- The row of an instruction, read off the table of 30_encoding.md R98 and the don't-care column of R96. -/
def Instr.row : Instr → OpcodeRow
  | .cls          => ⟨0x00E0, 0xF0FF, 0x0F00⟩
  | .ret          => ⟨0x00EE, 0xF0FF, 0x0F00⟩
  | .jmp _        => ⟨0x1000, 0xF000, 0x0000⟩
  | .call _       => ⟨0x2000, 0xF000, 0x0000⟩
  | .seImm _ _    => ⟨0x3000, 0xF000, 0x0000⟩
  | .sneImm _ _   => ⟨0x4000, 0xF000, 0x0000⟩
  | .seReg _ _    => ⟨0x5000, 0xF000, 0x000F⟩
  | .ldImm _ _    => ⟨0x6000, 0xF000, 0x0000⟩
  | .addImm _ _   => ⟨0x7000, 0xF000, 0x0000⟩
  | .ldReg _ _    => ⟨0x8000, 0xF00F, 0x0000⟩
  | .orReg _ _    => ⟨0x8001, 0xF00F, 0x0000⟩
  | .andReg _ _   => ⟨0x8002, 0xF00F, 0x0000⟩
  | .xorReg _ _   => ⟨0x8003, 0xF00F, 0x0000⟩
  | .addReg _ _   => ⟨0x8004, 0xF00F, 0x0000⟩
  | .sub _ _      => ⟨0x8005, 0xF00F, 0x0000⟩
  | .shr _        => ⟨0x8006, 0xF00F, 0x00F0⟩
  | .subn _ _     => ⟨0x8007, 0xF00F, 0x0000⟩
  | .shl _        => ⟨0x800E, 0xF00F, 0x00F0⟩
  | .sneReg _ _   => ⟨0x9000, 0xF000, 0x000F⟩
  | .ldI _        => ⟨0xA000, 0xF000, 0x0000⟩
  | .jmpV0 _      => ⟨0xB000, 0xF000, 0x0000⟩
  | .rnd _ _      => ⟨0xC000, 0xF000, 0x0000⟩
  | .drw _ _ _    => ⟨0xD000, 0xF000, 0x0000⟩
  | .skp _        => ⟨0xE09E, 0xF0FF, 0x0000⟩
  | .sknp _       => ⟨0xE0A1, 0xF0FF, 0x0000⟩
  | .ldFromDt _   => ⟨0xF007, 0xF0FF, 0x0000⟩
  | .ldKey _      => ⟨0xF00A, 0xF0FF, 0x0000⟩
  | .ldDt _       => ⟨0xF015, 0xF0FF, 0x0000⟩
  | .ldSt _       => ⟨0xF018, 0xF0FF, 0x0000⟩
  | .addI _       => ⟨0xF01E, 0xF0FF, 0x0000⟩
  | .ldFont _     => ⟨0xF029, 0xF0FF, 0x0000⟩
  | .bcd _        => ⟨0xF033, 0xF0FF, 0x0000⟩
  | .store _      => ⟨0xF055, 0xF0FF, 0x0000⟩
  | .load _       => ⟨0xF065, 0xF0FF, 0x0000⟩

/-- One instruction of each row, in the table's order; only its row matters here. -/
def rowSamples : List Instr :=
  [.cls, .ret, .jmp 0, .call 0, .seImm 0 0, .sneImm 0 0, .seReg 0 0, .ldImm 0 0, .addImm 0 0,
   .ldReg 0 0, .orReg 0 0, .andReg 0 0, .xorReg 0 0, .addReg 0 0, .sub 0 0, .shr 0, .subn 0 0, .shl 0,
   .sneReg 0 0, .ldI 0, .jmpV0 0, .rnd 0 0, .drw 0 0 0, .skp 0, .sknp 0,
   .ldFromDt 0, .ldKey 0, .ldDt 0, .ldSt 0, .addI 0, .ldFont 0, .bcd 0, .store 0, .load 0]

/-- The 34 rows of 30_encoding.md R98. -/
def opcodeTable : List OpcodeRow := rowSamples.map Instr.row

/-- The word is an instruction: some row of the opcode table selects it (30_encoding.md R98, R99). -/
def wordIsInstr (w : Word) : Bool := opcodeTable.any (·.selects w)

/-- The canonical encoding, "which an assembler emits", has 0 in every don't-care position (30_encoding.md R96). -/
def wordIsCanonical (w : Word) : Bool := opcodeTable.any fun r => r.selects w && (w &&& r.ignored = 0)

/-- A loader rejects a ROM longer than `ROM_MAX` = 3584 bytes (70_reset_and_hazards.md R266 (1)). -/
def romFits (rom : List Byte) : Bool := rom.length ≤ Config.romMax

/-- A loader issues no `Load` below 0x200 (10_state.md R44; 70_reset_and_hazards.md R266 (3)). -/
def loadAllowed (a : Addr) : Bool := Config.programBase.toNat ≤ a.toNat

end Sys2Proof
end

