-- ==== Sys2Proof/Decode.lean ====
section
/-! DEFINITION. The instruction decoder (spec/30_encoding.md R91, R94 to R97), total on all words and all bytes, and
the encoder written from the same table (R98) with canonical zeros in every don't-care position (R96). -/

namespace Sys2Proof

/-! The six field views of the word (30_encoding.md R91). -/

/-- `opcode = w[15:12]` -/
def fieldOpcode (w : Word) : Nibble := w.extractLsb' 12 4
/-- `x = w[11:8]` -/
def fieldX (w : Word) : Reg := w.extractLsb' 8 4
/-- `y = w[7:4]` -/
def fieldY (w : Word) : Reg := w.extractLsb' 4 4
/-- `n = w[3:0]` -/
def fieldN (w : Word) : Nibble := w.extractLsb' 0 4
/-- `nn = w[7:0]` -/
def fieldNN (w : Word) : Byte := w.extractLsb' 0 8
/-- `nnn = w[11:0]` -/
def fieldNNN (w : Word) : Addr := w.extractLsb' 0 12

/-- Which row of 30_encoding.md R99's table an unknown word falls under. -/
inductive UnknownFamily where
  | family0 | family8 | familyE | familyF
  deriving DecidableEq, Repr

/-- What the decoder makes of a word: one of the 34 instructions, or `Unknown`, with the family that rejects it. -/
inductive Decoded where
  | instr (i : Instr)
  | unknown (f : UnknownFamily)
  deriving DecidableEq, Repr

/-- Family 0 is dispatched on `nn` (30_encoding.md R95, R97); `x` is not examined (R96). -/
def decodeFamily0 (w : Word) : Decoded :=
  match fieldNN w with
  | 0xE0#8 => .instr .cls
  | 0xEE#8 => .instr .ret
  | _      => .unknown .family0

/-- Family 8 is dispatched on `n` (30_encoding.md R95, R97). -/
def decodeFamily8 (w : Word) : Decoded :=
  match fieldN w with
  | 0x0#4 => .instr (.ldReg (fieldX w) (fieldY w))
  | 0x1#4 => .instr (.orReg (fieldX w) (fieldY w))
  | 0x2#4 => .instr (.andReg (fieldX w) (fieldY w))
  | 0x3#4 => .instr (.xorReg (fieldX w) (fieldY w))
  | 0x4#4 => .instr (.addReg (fieldX w) (fieldY w))
  | 0x5#4 => .instr (.sub (fieldX w) (fieldY w))
  | 0x6#4 => .instr (.shr (fieldX w))
  | 0x7#4 => .instr (.subn (fieldX w) (fieldY w))
  | 0xE#4 => .instr (.shl (fieldX w))
  | _     => .unknown .family8

/-- Family E is dispatched on `nn` (30_encoding.md R95, R97). -/
def decodeFamilyE (w : Word) : Decoded :=
  match fieldNN w with
  | 0x9E#8 => .instr (.skp (fieldX w))
  | 0xA1#8 => .instr (.sknp (fieldX w))
  | _      => .unknown .familyE

/-- Family F is dispatched on `nn` (30_encoding.md R95, R97). -/
def decodeFamilyF (w : Word) : Decoded :=
  match fieldNN w with
  | 0x07#8 => .instr (.ldFromDt (fieldX w))
  | 0x0A#8 => .instr (.ldKey (fieldX w))
  | 0x15#8 => .instr (.ldDt (fieldX w))
  | 0x18#8 => .instr (.ldSt (fieldX w))
  | 0x1E#8 => .instr (.addI (fieldX w))
  | 0x29#8 => .instr (.ldFont (fieldX w))
  | 0x33#8 => .instr (.bcd (fieldX w))
  | 0x55#8 => .instr (.store (fieldX w))
  | 0x65#8 => .instr (.load (fieldX w))
  | _      => .unknown .familyF

/-- The decode function, total on 16-bit words (30_encoding.md R97). The last arm is opcode 0xF, the one value left. -/
def decodeWord (w : Word) : Decoded :=
  match fieldOpcode w with
  | 0x0#4 => decodeFamily0 w
  | 0x1#4 => .instr (.jmp (fieldNNN w))
  | 0x2#4 => .instr (.call (fieldNNN w))
  | 0x3#4 => .instr (.seImm (fieldX w) (fieldNN w))
  | 0x4#4 => .instr (.sneImm (fieldX w) (fieldNN w))
  | 0x5#4 => .instr (.seReg (fieldX w) (fieldY w))
  | 0x6#4 => .instr (.ldImm (fieldX w) (fieldNN w))
  | 0x7#4 => .instr (.addImm (fieldX w) (fieldNN w))
  | 0x8#4 => decodeFamily8 w
  | 0x9#4 => .instr (.sneReg (fieldX w) (fieldY w))
  | 0xA#4 => .instr (.ldI (fieldNNN w))
  | 0xB#4 => .instr (.jmpV0 (fieldNNN w))
  | 0xC#4 => .instr (.rnd (fieldX w) (fieldNN w))
  | 0xD#4 => .instr (.drw (fieldX w) (fieldY w) (fieldN w))
  | 0xE#4 => decodeFamilyE w
  | _     => decodeFamilyF w

/-- Big-endian composition of the two fetched bytes: `w[15:8] = hi`, `w[7:0] = lo` (20_memory.md R68). -/
def wordOfBytes (hi lo : Byte) : Word := hi ++ lo

/-- The byte stored at the lower address (20_memory.md R68). -/
def highByte (w : Word) : Byte := w.extractLsb' 8 8
/-- The byte stored at the higher address (20_memory.md R68). -/
def lowByte (w : Word) : Byte := w.extractLsb' 0 8

/-- The decoder on a stream of bytes: the first two make the word, the rest is returned (30_encoding.md R90: there is
one length only). `none` when fewer than two bytes are given. -/
def decode : List Byte → Option (Decoded × List Byte)
  | hi :: lo :: rest => some (decodeWord (wordOfBytes hi lo), rest)
  | _                => none

/-! The encoder: the canonical word of each instruction, from the patterns of 30_encoding.md R98 and the field
positions of R91. -/

/-- Format `NNN` (30_encoding.md R92). -/
def formatNNN (opcode : Nibble) (nnn : Addr) : Word := opcode ++ nnn
/-- Formats `XNN` and `XS` (30_encoding.md R92): in `XS` the low byte is the sub-opcode. -/
def formatXNN (opcode : Nibble) (x : Reg) (nn : Byte) : Word := (opcode ++ x : Byte) ++ nn
/-- Format `XYN` (30_encoding.md R92). -/
def formatXYN (opcode : Nibble) (x y : Reg) (n : Nibble) : Word := (opcode ++ x : Byte) ++ (y ++ n : Byte)

/-- The canonical word of an instruction (30_encoding.md R96, R98). -/
def encode : Instr → Word
  | .cls         => formatXNN 0x0 0 0xE0
  | .ret         => formatXNN 0x0 0 0xEE
  | .jmp nnn     => formatNNN 0x1 nnn
  | .call nnn    => formatNNN 0x2 nnn
  | .seImm x nn  => formatXNN 0x3 x nn
  | .sneImm x nn => formatXNN 0x4 x nn
  | .seReg x y   => formatXYN 0x5 x y 0
  | .ldImm x nn  => formatXNN 0x6 x nn
  | .addImm x nn => formatXNN 0x7 x nn
  | .ldReg x y   => formatXYN 0x8 x y 0x0
  | .orReg x y   => formatXYN 0x8 x y 0x1
  | .andReg x y  => formatXYN 0x8 x y 0x2
  | .xorReg x y  => formatXYN 0x8 x y 0x3
  | .addReg x y  => formatXYN 0x8 x y 0x4
  | .sub x y     => formatXYN 0x8 x y 0x5
  | .shr x       => formatXYN 0x8 x 0 0x6
  | .subn x y    => formatXYN 0x8 x y 0x7
  | .shl x       => formatXYN 0x8 x 0 0xE
  | .sneReg x y  => formatXYN 0x9 x y 0
  | .ldI nnn     => formatNNN 0xA nnn
  | .jmpV0 nnn   => formatNNN 0xB nnn
  | .rnd x nn    => formatXNN 0xC x nn
  | .drw x y n   => formatXYN 0xD x y n
  | .skp x       => formatXNN 0xE x 0x9E
  | .sknp x      => formatXNN 0xE x 0xA1
  | .ldFromDt x  => formatXNN 0xF x 0x07
  | .ldKey x     => formatXNN 0xF x 0x0A
  | .ldDt x      => formatXNN 0xF x 0x15
  | .ldSt x      => formatXNN 0xF x 0x18
  | .addI x      => formatXNN 0xF x 0x1E
  | .ldFont x    => formatXNN 0xF x 0x29
  | .bcd x       => formatXNN 0xF x 0x33
  | .store x     => formatXNN 0xF x 0x55
  | .load x      => formatXNN 0xF x 0x65

/-- The two bytes of an instruction as the hardware stores them, lower address first (20_memory.md R68). -/
def encodeBytes (i : Instr) : List Byte := [highByte (encode i), lowByte (encode i)]

/-- The bits of a table word as the one 16-bit instruction word, the bits above `nbits` being 0. -/
def tableWord (nbits w : Nat) : Word := BitVec.ofNat 16 (w % 2 ^ nbits)

/-- The instruction the decoder reads from the bits `w` of a table row (the host's question): the word is laid out in
bytes as the hardware stores it and given to `decode`. -/
def decodeTableWord (nbits w : Nat) : Option Instr :=
  match decode [highByte (tableWord nbits w), lowByte (tableWord nbits w)] with
  | some (.instr i, _) => some i
  | _                  => none

end Sys2Proof
end

