-- ==== Sys2Proof/Machine/State.lean ====
section
/-! DEFINITION. The state of the block as plain data (spec/10_state.md section 1), the events and outputs at its
boundary (R40), the reasons a step can stop, and the state after `Reset` (R48, 70_reset_and_hazards.md R260). -/

namespace Sys2Proof.Machine

/-- RAM as a list of (address, byte) pairs in one canonical form: addresses below 4096, strictly rising, and no entry
equal to what an unlisted address reads as, which is the reset content `Config.resetByte`. Log 6. -/
abbrev Memory := List Host.Cell

/-- The latch `FAULT` with the address of the faulting instruction (10_state.md R37). -/
inductive FaultLatch where
  | none
  | stackOverflow (a : Addr)
  | stackUnderflow (a : Addr)
  deriving DecidableEq, Repr

/-- The events that reach the block, each one atomic transition (00_scope.md R10, 10_state.md R40). -/
inductive Event where
  /-- 70_reset_and_hazards.md R260 -/
  | reset
  /-- 10_state.md R44 -/
  | load (addr : Addr) (byte : Byte)
  /-- 40_flow.md R120, with the inputs sampled at this step (10_state.md R41, R42) -/
  | step (keys : Keys) (rnd : Byte)
  /-- 60_exceptions.md R240 -/
  | tick
  /-- 10_state.md R47 (b) -/
  | redrawAck
  deriving DecidableEq, Repr

/-- The output events (10_state.md R40, R45, R46). -/
inductive Output where
  /-- one tone request to the audio sink, without payload (10_state.md R45) -/
  | tone
  /-- the unknown-instruction diagnostic: the word and the address it was fetched from (10_state.md R46) -/
  | unknown (w : Word) (a : Addr)
  deriving DecidableEq, Repr

/-- The whole state. The first eleven fields are the spec's tuple (10_state.md section 1); the last five are the
model's own: the boundary signals as plain data, so that a step is one function of the state. -/
structure State where
  /-- `V[0..15]` (R20) -/
  v : Vector Byte 16
  /-- the index register `I` (R24) -/
  i : Addr
  /-- the program counter (R25) -/
  pc : Addr
  /-- the stack pointer: the number of entries in use, 0..16 (R29) -/
  sp : BitVec 5
  /-- `STACK[0..15]`: call sites (R28) -/
  stack : Vector Addr 16
  /-- the delay timer (R31) -/
  dt : Byte
  /-- the sound timer (R32) -/
  st : Byte
  /-- `RAM[0..4095]` (20_memory.md R60) -/
  mem : Memory
  /-- `FB[0..2047]` (R34) -/
  fb : Framebuffer
  /-- `REDRAW` (R36) -/
  redraw : Bool
  /-- `FAULT` (R37) -/
  fault : FaultLatch
  /-- the key inputs as sampled by the step in progress (R41); the model's own field, log 4 -/
  keys : Keys
  /-- the random byte as sampled by the step in progress (R42); the model's own field, log 4 -/
  rnd : Byte
  /-- the outputs emitted so far, newest first (R45, R46); the model's own field, log 5 -/
  outputs : List Output
  /-- the events that will arrive, next first (00_scope.md R10); the model's own field, log 1 -/
  events : List Event
  /-- how many free samples of the inputs have been taken; the model's own field, log 2 and log 3 -/
  sampleNo : Nat
  deriving DecidableEq, Repr

/-- The reasons the machine can stop with a fault: NONE. The two stack faults of 60_exceptions.md R224 are next states
with the latch `FAULT` set, and "No instruction raises a fatal runtime error" (R222). Nobody raises a value of this
type, and none exists. Log 14. -/
inductive Fault where
  deriving DecidableEq, Repr

/-- The reasons a step can be refused. -/
inductive Refusal where
  /-- Raised by a dispatch arm of an instruction that has no meaning yet: no arm of this model. Safe: the model stops
  where the hardware goes on. -/
  | notModelled (mnemonic : String)
  deriving DecidableEq, Repr

/-- The state right after `Reset` (10_state.md R48, 70_reset_and_hazards.md R260), with no event pending. -/
def State.reset : State where
  v        := Vector.replicate 16 0
  i        := 0
  pc       := Config.programBase
  sp       := 0
  stack    := Vector.replicate 16 0
  dt       := 0
  st       := 0
  mem      := []
  fb       := 0
  redraw   := false
  fault    := .none
  keys     := 0
  rnd      := 0
  outputs  := []
  events   := []
  sampleNo := 0

end Sys2Proof.Machine
end

