-- ==== Sys2Proof/Machine/Ops.lean ====
section
/-! DEFINITION. The shared operations over memory, registers, stack and outputs (spec/00_scope.md R9), and the one
operation by which an instruction raises a fault (60_exceptions.md R224), with the only way back, `Reset` (R260). -/

namespace Sys2Proof.Machine

/-! ### RAM -/

/-- The byte at address `a`: the listed one, or the reset content. -/
def Memory.read : Memory → Nat → Byte
  | [], a          => Config.resetByte a
  | (b, w) :: m, a => if a = b then w else Memory.read m a

/-- Put an entry in front of a list of higher addresses, unless it says what an unlisted address reads as anyway. -/
def Memory.put (a : Nat) (val : Byte) (m : Memory) : Memory :=
  if val = Config.resetByte a then m else (a, val) :: m

/-- Write one byte, keeping the canonical form. -/
def Memory.write : Memory → Nat → Byte → Memory
  | [], a, val          => Memory.put a val []
  | (b, w) :: m, a, val =>
    if a < b then Memory.put a val ((b, w) :: m)
    else if a = b then Memory.put a val m
    else (b, w) :: Memory.write m a val

/-- Addresses strictly rising from `lo` on, below 4096, no entry equal to the reset content. -/
def Memory.wfFrom : Nat → Memory → Bool
  | _, []           => true
  | lo, (b, w) :: m =>
    decide (lo ≤ b) && decide (b < Config.ramSize) && decide (w ≠ Config.resetByte b) && Memory.wfFrom (b + 1) m

/-- The canonical form of RAM. -/
def Memory.wf (m : Memory) : Bool := Memory.wfFrom 0 m

/-- `MemRead(addr, 1)`: the byte `RAM[addr mod 4096]`; it never fails (20_memory.md R62). -/
def State.memRead (s : State) (addr : Nat) : Byte := s.mem.read (addr % Config.ramSize)

/-- `MemWrite(addr, 1, v)`: `RAM[addr mod 4096] <- v`; it never fails (20_memory.md R63). -/
def State.memWrite (s : State) (addr : Nat) (val : Byte) : State :=
  { s with mem := s.mem.write (addr % Config.ramSize) val }

/-! ### Registers -/

/-- `V[x]` (00_scope.md R9). -/
def State.readV (s : State) (x : Reg) : Byte := s.v[x.toNat]'x.isLt

/-- `V[x] <- val` (00_scope.md R9). -/
def State.writeV (s : State) (x : Reg) (val : Byte) : State := { s with v := s.v.set x.toNat val x.isLt }

/-- `I <- a` (10_state.md R24). -/
def State.setI (s : State) (a : Addr) : State := { s with i := a }

/-- `pc <- a` (10_state.md R25). -/
def State.setPc (s : State) (a : Addr) : State := { s with pc := a }

/-- `pc <- (a + 2) mod 4096`, the end of every non-control instruction (40_flow.md R121, 10_state.md R27). -/
def State.advance (s : State) : State := s.setPc (s.pc + 2#12)

/-- `pc <- (a + 4) mod 4096` when the condition holds, `pc <- (a + 2) mod 4096` otherwise (10_state.md R26). -/
def State.skipIf (s : State) (cond : Bool) : State := if cond then s.setPc (s.pc + 4#12) else s.advance

/-- `DT <- val` (10_state.md R31). -/
def State.setDt (s : State) (val : Byte) : State := { s with dt := val }

/-- `ST <- val` (10_state.md R32). -/
def State.setSt (s : State) (val : Byte) : State := { s with st := val }

/-- `FB <- fb` (10_state.md R35). -/
def State.setFb (s : State) (fb : Framebuffer) : State := { s with fb := fb }

/-- `REDRAW <- val` (10_state.md R36). -/
def State.setRedraw (s : State) (val : Bool) : State := { s with redraw := val }

/-! ### The stack (10_state.md R28, R29) -/

/-- The 4-bit index of the entry array: the low four bits of the count (10_state.md R29). Log 8. -/
def stackIndex (k : BitVec 5) : BitVec 4 := k.extractLsb' 0 4

/-- `STACK[k]` (10_state.md R28). -/
def State.stackEntry (s : State) (k : BitVec 5) : Addr := s.stack[(stackIndex k).toNat]'(stackIndex k).isLt

/-- `STACK[SP] <- a; SP <- SP + 1` (40_flow.md R124). -/
def State.push (s : State) (a : Addr) : State :=
  { s with stack := s.stack.set (stackIndex s.sp).toNat a (stackIndex s.sp).isLt, sp := s.sp + 1#5 }

/-- `SP <- SP - 1`; the entry is not erased (40_flow.md R122). -/
def State.pop (s : State) : State := { s with sp := s.sp - 1#5 }

/-! ### Outputs and the sampled inputs -/

/-- `emit Tone`, `emit Unknown(w, a)` (00_scope.md R9). -/
def State.emit (s : State) (o : Output) : State := { s with outputs := o :: s.outputs }

/-- A step samples the key inputs and the random byte once (10_state.md R41, R42). -/
def State.sample (s : State) (keys : Keys) (rnd : Byte) : State := { s with keys := keys, rnd := rnd }

/-- `Key(k)` (00_scope.md R9). -/
def State.key (s : State) (k : Nibble) : Bool := s.keys.getLsbD k.toNat

/-! ### Raising a fault, and leaving the faulted state -/

/-- `raise <Exception>(a)`: `FAULT <- <Exception>(a)` with `a` the address of the instruction, and nothing else; `pc`
still points at the faulting instruction (60_exceptions.md R224, R225). -/
def State.raise (s : State) (exception : Addr → FaultLatch) : State := { s with fault := exception s.pc }

/-- `Reset` from any state (70_reset_and_hazards.md R260): every piece of the block's state takes its reset value. The
boundary is not the block's: the pending events, the outputs already emitted, the sampled inputs and the numbering of
the free samples stay ("`Reset` has no effect on the sequence of `rnd` values", R265). Log 15. -/
def State.doReset (s : State) : State :=
  { State.reset with
    keys := s.keys, rnd := s.rnd, outputs := s.outputs, events := s.events, sampleNo := s.sampleNo }

end Sys2Proof.Machine
end

