-- ==== Sys2Proof/Machine/Flags.lean ====
section
/-! DEFINITION. Every value written to `VF` as a flag by the ALU (spec/10_state.md R33), the ALU results
(41_alu.md R154), and the order of the two writes (R146). The collision flag of `DXYN` is in Machine/Display.lean. -/

namespace Sys2Proof.Machine

/-- A flag value, 0 or 1, as `VF` holds it (10_state.md R21). -/
def flagByte (b : Bool) : Byte := if b then 1#8 else 0#8

/-- Carry of `8XY4`: `V[y] > 0xFF - V[x]` (41_alu.md R147). -/
def carryFlag (vx vy : Byte) : Byte := flagByte (decide (vy > 0xFF#8 - vx))

/-- No-borrow of `8XY5`: 0 if `V[y] > V[x]`, else 1 (41_alu.md R148). -/
def subFlag (vx vy : Byte) : Byte := flagByte (!decide (vy > vx))

/-- No-borrow of `8XY7`: 0 if `V[y] < V[x]`, else 1 (41_alu.md R150). -/
def subnFlag (vx vy : Byte) : Byte := flagByte (!decide (vy < vx))

/-- The bit `8XY6` shifts out: `V[x] & 1` (41_alu.md R149). -/
def shrFlag (vx : Byte) : Byte := vx &&& 1#8

/-- The bit `8XYE` shifts out: `V[x] >> 7` (41_alu.md R151). -/
def shlFlag (vx : Byte) : Byte := vx >>> 7

/-- The flag-first order of 41_alu.md R146: compute the flag from the registers at the start of the step, write it to
`VF`, only then read the operands again and write the result to `V[x]`; then `pc` advances. -/
def State.flagThenResult (s : State) (x y : Reg) (flag result : Byte → Byte → Byte) : State :=
  let s' := s.writeV Reg.F (flag (s.readV x) (s.readV y))
  (s'.writeV x (result (s'.readV x) (s'.readV y))).advance

end Sys2Proof.Machine
end

