-- ==== Sys2Proof/Machine/Operands.lean ====
section
/-! DEFINITION. The operand forms of the instruction set: zero-extended values in address arithmetic
(spec/30_encoding.md R93), the I-indirect effective address (42_index_memory.md R176), register ranges `V[0]..V[x]`
(R174, R175), decimal digits (R173), the key index (44_keypad_timers.md R200), the highest pressed key (R202), and
the masked random byte (41_alu.md R155). -/

namespace Sys2Proof.Machine

/-- `zext_12` of a register value (00_scope.md R8, 30_encoding.md R93). -/
def zext12 (b : Byte) : Addr := b.setWidth 12

/-- The effective address `I + k` before the reduction modulo 4096 that `MemRead` and `MemWrite` make
(42_index_memory.md R176, 20_memory.md R62). -/
def State.effAddr (s : State) (k : Nat) : Nat := s.i.toNat + k

/-- The register whose index is the number `k`, 0 <= k <= 15. -/
def regOfNat (k : Nat) : Reg := BitVec.ofNat 4 k

/-- `for k = 0, 1, ..., count-1: MemWrite(I + k, 1, V[k])`, ascending (42_index_memory.md R174). -/
def State.storeRegs : Nat → State → State
  | 0, s         => s
  | count + 1, s =>
    let s' := State.storeRegs count s
    s'.memWrite (s'.effAddr count) (s'.readV (regOfNat count))

/-- `for k = 0, 1, ..., count-1: V[k] <- MemRead(I + k, 1)`, ascending (42_index_memory.md R175). -/
def State.loadRegs : Nat → State → State
  | 0, s         => s
  | count + 1, s =>
    let s' := State.loadRegs count s
    s'.writeV (regOfNat count) (s'.memRead (s'.effAddr count))

/-- The hundreds digit, `V[x] / 100` (42_index_memory.md R173). -/
def hundreds (b : Byte) : Byte := BitVec.ofNat 8 (b.toNat / 100)
/-- The tens digit, `(V[x] / 10) mod 10` (42_index_memory.md R173). -/
def tens (b : Byte) : Byte := BitVec.ofNat 8 (b.toNat / 10 % 10)
/-- The ones digit, `V[x] mod 10` (42_index_memory.md R173). -/
def ones (b : Byte) : Byte := BitVec.ofNat 8 (b.toNat % 10)

/-- `V[x] & 0xF`: the low nibble selects one of 16 keys (44_keypad_timers.md R200). -/
def keyIndex (b : Byte) : Nibble := b.extractLsb' 0 4

/-- The largest k below `bound` with `keys[k]` pressed, if there is one. -/
def highestKeyBelow (keys : Keys) : Nat → Option Nibble
  | 0         => none
  | bound + 1 => if keys.getLsbD bound then some (BitVec.ofNat 4 bound) else highestKeyBelow keys bound

/-- "the largest k in 0..15 with Key(k)", none when no key is pressed (44_keypad_timers.md R202). -/
def State.highestKey (s : State) : Option Nibble := highestKeyBelow s.keys 16

/-- `Rnd() mod 255`: in 0..254, and 255 gives 0 (41_alu.md R155). -/
def rndMod255 (b : Byte) : Byte := BitVec.ofNat 8 (b.toNat % 255)

/-- The address of the glyph for a value: `(FONT_BASE + 5 * V[x]) mod 4096`, the whole 8-bit value multiplied
(42_index_memory.md R172). -/
def glyphAddr (b : Byte) : Addr := Config.fontBase + 5#12 * zext12 b

end Sys2Proof.Machine
end

