-- ==== Sys2Proof/Machine/Display.lean ====
section
/-! DEFINITION. The framebuffer and its two instructions, and the collision detector (spec/43_display.md R190 to R194,
10_state.md R34). -/

namespace Sys2Proof.Machine

/-- The linear index of column `cx`, row `cy`: row-major, 64 columns (10_state.md R34). -/
def cellIndex (cx cy : Nat) : Nat := cy * 64 + cx

/-- The cell under pixel (r, c) of a sprite at (x0, y0): every pixel coordinate wraps (43_display.md R191, R192). -/
def spriteCell (x0 y0 : Byte) (r c : Nat) : Nat := cellIndex ((x0.toNat + c) % 64) ((y0.toNat + r) % 32)

/-- `FB[k]`, 1 is on (10_state.md R34). -/
def fbCell (fb : Framebuffer) (k : Nat) : Bool := fb.getLsbD k

/-- `FB[k] <- FB[k] ^ 1` (43_display.md R191). -/
def fbToggle (fb : Framebuffer) (k : Nat) : Framebuffer := fb ^^^ (1#2048 <<< k)

/-- The framebuffer with the running `collision` and `toggled` of 43_display.md R191; the two are not architectural
state (R192). -/
structure DrawState where
  fb        : Framebuffer
  collision : Bool
  toggled   : Bool
  deriving DecidableEq, Repr

/-- One pixel: bit `7 - c` of the row byte; bit 7 is the leftmost pixel (43_display.md R191). -/
def drawPixel (x0 y0 b : Byte) (r c : Nat) (d : DrawState) : DrawState :=
  if b.getLsbD (7 - c) then
    { fb        := fbToggle d.fb (spriteCell x0 y0 r c)
      collision := d.collision || fbCell d.fb (spriteCell x0 y0 r c)
      toggled   := true }
  else d

/-- `for c = 0 .. cols-1` of one sprite row. -/
def drawRow (x0 y0 b : Byte) (r : Nat) : Nat → DrawState → DrawState
  | 0, d        => d
  | cols + 1, d => drawPixel x0 y0 b r cols (drawRow x0 y0 b r cols d)

/-- `for r = 0 .. rows-1`, row `r` of the sprite read from `I + r` (43_display.md R191). -/
def State.drawRows (s : State) (x0 y0 : Byte) : Nat → DrawState → DrawState
  | 0, d        => d
  | rows + 1, d => drawRow x0 y0 (s.memRead (s.effAddr rows)) rows 8 (State.drawRows s x0 y0 rows d)

/-- The whole sprite: `V[x]`, `V[y]` sampled before `VF` is written (43_display.md R191). -/
def State.drawSprite (s : State) (x y : Reg) (n : Nibble) : DrawState :=
  s.drawRows (s.readV x) (s.readV y) n.toNat { fb := s.fb, collision := false, toggled := false }

/-- `00E0` CLS: all 2048 cells 0, `REDRAW` set unconditionally (43_display.md R190). -/
def execCls (s : State) : Host.Outcome State Fault Refusal :=
  .next ((s.setFb 0#2048).setRedraw true).advance

/-- `DXYN` DRW Vx, Vy, n (43_display.md R191): `VF` takes the collision, always; `REDRAW` is set iff a cell was
toggled. -/
def execDrw (x y : Reg) (n : Nibble) (s : State) : Host.Outcome State Fault Refusal :=
  let d := s.drawSprite x y n
  .next (((s.setFb d.fb).writeV Reg.F (flagByte d.collision)).setRedraw (s.redraw || d.toggled)).advance

end Sys2Proof.Machine
end

