-- ==== Sys2Proof/Machine/Boundary.lean ====
section
/-! DEFINITION. The boundary of the block: the timer unit's `Tick` (spec/60_exceptions.md R240), `RedrawAck` and
`Load` (10_state.md R44, R47), the level outputs (R47), the loader (70_reset_and_hazards.md R263, R266), and the
order of coincident strobes in the clocked view (60_exceptions.md R228). -/

namespace Sys2Proof.Machine

/-- The delay timer counts down while nonzero and stays at 0 (60_exceptions.md R240). -/
def State.tickDelay (s : State) : State := if s.dt = 0#8 then s else s.setDt (s.dt - 1#8)

/-- The sound timer counts down while nonzero; the tick that takes it from 1 to 0 emits one `Tone`
(60_exceptions.md R240, R241). -/
def State.tickSound (s : State) : State :=
  if s.st = 0#8 then s
  else (if s.st = 1#8 then s.emit .tone else s).setSt (s.st - 1#8)

/-- `Tick` (60_exceptions.md R240). -/
def State.tick (s : State) : State := s.tickDelay.tickSound

/-- `RedrawAck`: `REDRAW <- 0` and nothing else (10_state.md R47 (b)). -/
def State.redrawAck (s : State) : State := s.setRedraw false

/-- `Load(addr, byte)`: `RAM[addr] <- byte` and nothing else; the block does not check (10_state.md R44). Log 10. -/
def State.load (s : State) (addr : Addr) (byte : Byte) : State := s.memWrite addr.toNat byte

/-! ### Level outputs (10_state.md R47) -/

/-- The framebuffer read port: one cell, no side effect (10_state.md R47 (a)). -/
def State.fbRead (s : State) (k : BitVec 11) : Bool := fbCell s.fb k.toNat

/-- `redraw_requested` (10_state.md R47 (b)). -/
def State.redrawRequested (s : State) : Bool := s.redraw

/-- `fault`: 1 exactly when `FAULT` is not `None` (10_state.md R47 (c)). -/
def State.faultLine (s : State) : Bool := decide (s.fault ≠ .none)

/-- `fault_cause`: 0 `None`, 1 `StackOverflow`, 2 `StackUnderflow` (10_state.md R47 (c), 60_exceptions.md R221). -/
def State.faultCause (s : State) : BitVec 2 :=
  match s.fault with
  | .none             => 0
  | .stackOverflow _  => 1
  | .stackUnderflow _ => 2

/-- `fault_pc`: the latched address; no value while none is latched (10_state.md R47 (c)). Log 13. -/
def State.faultPc (s : State) : Option Addr :=
  match s.fault with
  | .none             => none
  | .stackOverflow a  => some a
  | .stackUnderflow a => some a

/-! ### The loader (70_reset_and_hazards.md R263, R266) -/

/-- `Load(a + i, rom[i])` for each byte, ascending. -/
def loadsFrom : Addr → List Byte → List Event
  | _, []        => []
  | a, b :: rest => .load a b :: loadsFrom (a + 1#12) rest

/-- The events a loader issues for a ROM; none for a ROM longer than `ROM_MAX`, "no partial load"
(70_reset_and_hazards.md R266 (1), (2)). -/
def romLoads (rom : List Byte) : Option (List Event) :=
  if romFits rom then some (loadsFrom Config.programBase rom) else none

/-! ### The clocked view (10_state.md R40, R43, R47; 60_exceptions.md R228) -/

/-- The strobes that are high in one clock (10_state.md R40). -/
structure Strobes where
  rst       : Bool
  load      : Option (Addr × Byte)
  step      : Option (Keys × Byte)
  tick      : Bool
  redrawAck : Bool
  deriving DecidableEq, Repr

/-- The events one clock performs, in order: `Reset` over everything; `Step` before `Tick`; the acknowledge before
the `Step`, so that a `REDRAW` set wins over the clear (60_exceptions.md R228). A `Load` comes first: log 11. -/
def Strobes.toEvents (c : Strobes) : List Event :=
  if c.rst then [.reset]
  else List.flatten
    [ match c.load with | some (a, b) => [.load a b] | none => [],
      if c.redrawAck then [.redrawAck] else [],
      match c.step with | some (k, r) => [.step k r] | none => [],
      if c.tick then [.tick] else [] ]

end Sys2Proof.Machine
end

