-- ==== Sys2Proof/Machine/Alu.lean ====
section
/-! DEFINITION. Register load, arithmetic, logic, shift and random instructions (spec/41_alu.md R140 to R155). Every
one ends with `pc <- (a + 2) mod 4096` and raises nothing. -/

namespace Sys2Proof.Machine

/-- `6XNN` LD Vx, nn (41_alu.md R140). -/
def execLdImm (x : Reg) (nn : Byte) (s : State) : Host.Outcome State Fault Refusal :=
  .next (s.writeV x nn).advance

/-- `7XNN` ADD Vx, nn: no carry flag (41_alu.md R141). -/
def execAddImm (x : Reg) (nn : Byte) (s : State) : Host.Outcome State Fault Refusal :=
  .next (s.writeV x (s.readV x + nn)).advance

/-- `8XY0` LD Vx, Vy (41_alu.md R142). -/
def execLdReg (x y : Reg) (s : State) : Host.Outcome State Fault Refusal :=
  .next (s.writeV x (s.readV y)).advance

/-- `8XY1` OR Vx, Vy: `VF` untouched (41_alu.md R143). -/
def execOrReg (x y : Reg) (s : State) : Host.Outcome State Fault Refusal :=
  .next (s.writeV x (s.readV x ||| s.readV y)).advance

/-- `8XY2` AND Vx, Vy: `VF` untouched (41_alu.md R144). -/
def execAndReg (x y : Reg) (s : State) : Host.Outcome State Fault Refusal :=
  .next (s.writeV x (s.readV x &&& s.readV y)).advance

/-- `8XY3` XOR Vx, Vy: `VF` untouched (41_alu.md R145). -/
def execXorReg (x y : Reg) (s : State) : Host.Outcome State Fault Refusal :=
  .next (s.writeV x (s.readV x ^^^ s.readV y)).advance

/-- `8XY4` ADD Vx, Vy: carry to `VF`, then the sum mod 256 (41_alu.md R147). -/
def execAddReg (x y : Reg) (s : State) : Host.Outcome State Fault Refusal :=
  .next (s.flagThenResult x y carryFlag (fun vx vy => vx + vy))

/-- `8XY5` SUB Vx, Vy: no-borrow to `VF`, then `V[x] - V[y]` (41_alu.md R148). -/
def execSub (x y : Reg) (s : State) : Host.Outcome State Fault Refusal :=
  .next (s.flagThenResult x y subFlag (fun vx vy => vx - vy))

/-- `8XY6` SHR Vx: bit 0 to `VF`, then the logical shift by one; `V[y]` is not read (41_alu.md R149). -/
def execShr (x : Reg) (s : State) : Host.Outcome State Fault Refusal :=
  .next (s.flagThenResult x x (fun vx _ => shrFlag vx) (fun vx _ => vx >>> 1))

/-- `8XY7` SUBN Vx, Vy: no-borrow to `VF`, then `V[y] - V[x]` (41_alu.md R150). -/
def execSubn (x y : Reg) (s : State) : Host.Outcome State Fault Refusal :=
  .next (s.flagThenResult x y subnFlag (fun vx vy => vy - vx))

/-- `8XYE` SHL Vx: bit 7 to `VF`, then the shift by one; `V[y]` is not read (41_alu.md R151). -/
def execShl (x : Reg) (s : State) : Host.Outcome State Fault Refusal :=
  .next (s.flagThenResult x x (fun vx _ => shlFlag vx) (fun vx _ => vx <<< 1))

/-- `CXNN` RND Vx, nn: `nn & (Rnd() mod 255)` (41_alu.md R155). -/
def execRnd (x : Reg) (nn : Byte) (s : State) : Host.Outcome State Fault Refusal :=
  .next (s.writeV x (nn &&& rndMod255 s.rnd)).advance

end Sys2Proof.Machine
end

