-- ==== Sys2Proof/Machine/Flow.lean ====
section
/-! DEFINITION. The control-transfer instructions (spec/40_flow.md R122 to R129). -/

namespace Sys2Proof.Machine

/-- `00EE` RET (40_flow.md R122): underflow when `SP = 0`; else pop the call site and go on after it. -/
def execRet (s : State) : Host.Outcome State Fault Refusal :=
  .next (if s.sp = 0#5 then s.raise .stackUnderflow else s.pop.setPc (s.pop.stackEntry s.pop.sp + 2#12))

/-- `1NNN` JMP nnn (40_flow.md R123). -/
def execJmp (nnn : Addr) (s : State) : Host.Outcome State Fault Refusal :=
  .next (s.setPc nnn)

/-- `2NNN` CALL nnn (40_flow.md R124): overflow when `SP = 16`; else push the call site and jump. -/
def execCall (nnn : Addr) (s : State) : Host.Outcome State Fault Refusal :=
  .next (if s.sp = 16#5 then s.raise .stackOverflow else (s.push s.pc).setPc nnn)

/-- `BNNN` JMP V0, nnn (40_flow.md R125): always register 0, modulo 4096. -/
def execJmpV0 (nnn : Addr) (s : State) : Host.Outcome State Fault Refusal :=
  .next (s.setPc (nnn + zext12 (s.readV 0x0#4)))

/-- `3XNN` SE Vx, nn: skip if equal (40_flow.md R126). -/
def execSeImm (x : Reg) (nn : Byte) (s : State) : Host.Outcome State Fault Refusal :=
  .next (s.skipIf (s.readV x == nn))

/-- `4XNN` SNE Vx, nn: skip if different (40_flow.md R127). -/
def execSneImm (x : Reg) (nn : Byte) (s : State) : Host.Outcome State Fault Refusal :=
  .next (s.skipIf (s.readV x != nn))

/-- `5XY0` SE Vx, Vy: skip if equal (40_flow.md R128). -/
def execSeReg (x y : Reg) (s : State) : Host.Outcome State Fault Refusal :=
  .next (s.skipIf (s.readV x == s.readV y))

/-- `9XY0` SNE Vx, Vy: skip if different (40_flow.md R129). -/
def execSneReg (x y : Reg) (s : State) : Host.Outcome State Fault Refusal :=
  .next (s.skipIf (s.readV x != s.readV y))

end Sys2Proof.Machine
end

