-- ==== Sys2Proof/Machine/IndexMemory.lean ====
section
/-! DEFINITION. Index-register and memory instructions (spec/42_index_memory.md R170 to R175). Every one ends with
`pc <- (a + 2) mod 4096`, writes no flag and raises nothing. -/

namespace Sys2Proof.Machine

/-- `ANNN` LD I, nnn (42_index_memory.md R170). -/
def execLdI (nnn : Addr) (s : State) : Host.Outcome State Fault Refusal :=
  .next (s.setI nnn).advance

/-- `FX1E` ADD I, Vx: modulo 4096, `VF` untouched (42_index_memory.md R171). -/
def execAddI (x : Reg) (s : State) : Host.Outcome State Fault Refusal :=
  .next (s.setI (s.i + zext12 (s.readV x))).advance

/-- `FX29` LD F, Vx (42_index_memory.md R172). -/
def execLdFont (x : Reg) (s : State) : Host.Outcome State Fault Refusal :=
  .next (s.setI (glyphAddr (s.readV x))).advance

/-- `FX33` BCD Vx: hundreds, tens, ones to `I`, `I + 1`, `I + 2` (42_index_memory.md R173). -/
def execBcd (x : Reg) (s : State) : Host.Outcome State Fault Refusal :=
  .next (((s.memWrite (s.effAddr 0) (hundreds (s.readV x))).memWrite (s.effAddr 1) (tens (s.readV x))).memWrite
    (s.effAddr 2) (ones (s.readV x))).advance

/-- `I <- (I + x + 1) mod 4096`, once, after all accesses (42_index_memory.md R174, R175). -/
def State.bumpI (s : State) (x : Reg) : State := s.setI (s.i + BitVec.ofNat 12 (x.toNat + 1))

/-- `FX55` LD [I], Vx: store `V[0]..V[x]`, then advance `I` (42_index_memory.md R174). -/
def execStore (x : Reg) (s : State) : Host.Outcome State Fault Refusal :=
  .next ((s.storeRegs (x.toNat + 1)).bumpI x).advance

/-- `FX65` LD Vx, [I]: load `V[0]..V[x]`, then advance `I` (42_index_memory.md R175). -/
def execLoad (x : Reg) (s : State) : Host.Outcome State Fault Refusal :=
  .next ((s.loadRegs (x.toNat + 1)).bumpI x).advance

end Sys2Proof.Machine
end

