-- ==== Sys2Proof/Machine/KeypadTimers.lean ====
section
/-! DEFINITION. Keypad and timer instructions (spec/44_keypad_timers.md R200 to R205). -/

namespace Sys2Proof.Machine

/-- `EX9E` SKP Vx: skip if the key named by the low nibble of `V[x]` is pressed (44_keypad_timers.md R200). -/
def execSkp (x : Reg) (s : State) : Host.Outcome State Fault Refusal :=
  .next (s.skipIf (s.key (keyIndex (s.readV x))))

/-- `EXA1` SKNP Vx: skip if that key is not pressed (44_keypad_timers.md R201). -/
def execSknp (x : Reg) (s : State) : Host.Outcome State Fault Refusal :=
  .next (s.skipIf (!s.key (keyIndex (s.readV x))))

/-- `FX0A` LD Vx, K: with no key pressed nothing changes at all; else the highest pressed key goes to `V[x]`
(44_keypad_timers.md R202). -/
def execLdKey (x : Reg) (s : State) : Host.Outcome State Fault Refusal :=
  .next (match s.highestKey with
    | none   => s
    | some k => (s.writeV x (k.setWidth 8)).advance)

/-- `FX07` LD Vx, DT (44_keypad_timers.md R203). -/
def execLdFromDt (x : Reg) (s : State) : Host.Outcome State Fault Refusal :=
  .next (s.writeV x s.dt).advance

/-- `FX15` LD DT, Vx (44_keypad_timers.md R204). -/
def execLdDt (x : Reg) (s : State) : Host.Outcome State Fault Refusal :=
  .next (s.setDt (s.readV x)).advance

/-- `FX18` LD ST, Vx: no `Tone` is emitted (44_keypad_timers.md R205). -/
def execLdSt (x : Reg) (s : State) : Host.Outcome State Fault Refusal :=
  .next (s.setSt (s.readV x)).advance

end Sys2Proof.Machine
end

