-- ==== Sys2Proof/Machine/Cycle.lean ====
section
/-! DEFINITION. The step cycle (spec/40_flow.md R120), what each event does (00_scope.md R10), which event comes next,
and placing a word where the next step fetches. Machine/Step.lean only calls what is here. -/

namespace Sys2Proof.Machine

/-- The instruction word at `pc`: big-endian, second byte at `(pc + 1) mod 4096` (20_memory.md R68). -/
def State.fetchWord (s : State) : Word := wordOfBytes (s.memRead s.pc.toNat) (s.memRead (s.pc.toNat + 1))

/-- The unknown-instruction soft failure: one `Unknown(w, a)`, `pc` advances by 2, nothing else
(60_exceptions.md R220). -/
def State.unknownInstr (s : State) (w : Word) : State := (s.emit (.unknown w s.pc)).advance

/-- Fetch, decode, dispatch, execute (40_flow.md R120, after the test of `FAULT`). -/
def State.cycle (s : State) : Host.Outcome State Fault Refusal :=
  match decodeWord s.fetchWord with
  | .instr i   => exec i s
  | .unknown _ => .next (s.unknownInstr s.fetchWord)

/-- `Step(keys, rnd)` (40_flow.md R120); a no-op while `FAULT` is set (60_exceptions.md R226). Log 16. -/
def State.stepEvent (s : State) (keys : Keys) (rnd : Byte) : Host.Outcome State Fault Refusal :=
  if s.fault = .none then (s.sample keys rnd).cycle else .next s

/-- One event, one atomic transition (00_scope.md R10). -/
def transition (e : Event) (s : State) : Host.Outcome State Fault Refusal :=
  match e with
  | .reset         => .next s.doReset
  | .load a b      => .next (s.load a b)
  | .step keys rnd => s.stepEvent keys rnd
  | .tick          => .next s.tick
  | .redrawAck     => .next s.redrawAck

/-- The first pending event is performed; when none is pending, a `Step` whose inputs are free values. Log 1, log 2,
log 3. -/
def State.runNext (s : State) : Host.Outcome State Fault Refusal :=
  match s.events with
  | e :: rest => transition e { s with events := rest }
  | []        =>
    State.stepEvent { s with sampleNo := s.sampleNo + 1 } (Config.freeKeys s.sampleNo) (Config.freeRnd s.sampleNo)

/-- Place a table word at `pc` (both bytes, big-endian, modulo 4096) and make the next event a `Step` that executes:
`FAULT` cleared, a `Step` event put first that samples the inputs the ports show. Log 17. -/
def State.placeWord (s : State) (nbits w : Nat) : State :=
  { (s.memWrite s.pc.toNat (highByte (tableWord nbits w))).memWrite (s.pc.toNat + 1) (lowByte (tableWord nbits w)) with
    fault  := .none
    events := .step s.keys s.rnd :: s.events }

end Sys2Proof.Machine
end

