-- ==== Sys2Proof/Machine/Step.lean ====
section
/-! DEFINITION. The step of the whole machine: one event (spec/00_scope.md R10). -/

namespace Sys2Proof.Machine

/-- One step of the machine performs one event; see `State.runNext`. -/
def step (s : State) : Host.Outcome State Fault Refusal := s.runNext

/-- The instruction of a table row stored where the next step fetches; see `State.placeWord`. -/
def State.withFetchWord (s : State) (nbits w : Nat) : State := s.placeWord nbits w

end Sys2Proof.Machine
end

