-- ==== Sys2Proof/Laws/Decode.lean ====
section
/-! SUPPORT. The field views of a word put together from its fields (30_encoding.md R91), and the bytes of a word. -/

namespace Sys2Proof

/-- Two halves put together and taken apart again: the high half. -/
theorem extract_append_high {m n : Nat} (hi : BitVec m) (lo : BitVec n) : (hi ++ lo).extractLsb' n m = hi := by
  ext i h
  simp [BitVec.getLsbD_append, show ¬ n + i < n by omega, h]

/-- Two halves put together and taken apart again: the low half. -/
theorem extract_append_low {m n : Nat} (hi : BitVec m) (lo : BitVec n) : (hi ++ lo).extractLsb' 0 n = lo := by
  ext i h
  simp [BitVec.getLsbD_append, h]

/-- A slice of a slice. -/
theorem extract_extract {w : Nat} (v : BitVec w) {a l b k : Nat} (h : b + k ≤ l) :
    (v.extractLsb' a l).extractLsb' b k = v.extractLsb' (a + b) k := by
  ext i hi
  simp [show b + i < l by omega, Nat.add_assoc]

/-! Every field of a word of format XNN is the nibble or byte it was made of (30_encoding.md R92). -/

theorem formatXNN_high (op : Nibble) (x : Reg) (nn : Byte) : (formatXNN op x nn).extractLsb' 8 8 = (op ++ x : Byte) :=
  extract_append_high (op ++ x : Byte) nn

@[simp] theorem formatXNN_opcode (op : Nibble) (x : Reg) (nn : Byte) : fieldOpcode (formatXNN op x nn) = op := by
  have h := extract_extract (formatXNN op x nn) (a := 8) (l := 8) (b := 4) (k := 4) (by omega)
  rw [formatXNN_high] at h
  exact h.symm.trans (extract_append_high op x)

@[simp] theorem formatXNN_x (op : Nibble) (x : Reg) (nn : Byte) : fieldX (formatXNN op x nn) = x := by
  have h := extract_extract (formatXNN op x nn) (a := 8) (l := 8) (b := 0) (k := 4) (by omega)
  rw [formatXNN_high] at h
  exact h.symm.trans (extract_append_low op x)

@[simp] theorem formatXNN_nn (op : Nibble) (x : Reg) (nn : Byte) : fieldNN (formatXNN op x nn) = nn :=
  extract_append_low (op ++ x : Byte) nn

theorem formatXYN_eq (op : Nibble) (x y : Reg) (n : Nibble) : formatXYN op x y n = formatXNN op x (y ++ n) := rfl

@[simp] theorem formatXYN_opcode (op : Nibble) (x y : Reg) (n : Nibble) : fieldOpcode (formatXYN op x y n) = op :=
  formatXNN_opcode op x (y ++ n)

@[simp] theorem formatXYN_x (op : Nibble) (x y : Reg) (n : Nibble) : fieldX (formatXYN op x y n) = x :=
  formatXNN_x op x (y ++ n)

@[simp] theorem formatXYN_y (op : Nibble) (x y : Reg) (n : Nibble) : fieldY (formatXYN op x y n) = y := by
  have h := extract_extract (formatXYN op x y n) (a := 0) (l := 8) (b := 4) (k := 4) (by omega)
  rw [show (formatXYN op x y n).extractLsb' 0 8 = (y ++ n : Byte) from formatXNN_nn op x (y ++ n)] at h
  exact h.symm.trans (extract_append_high y n)

@[simp] theorem formatXYN_n (op : Nibble) (x y : Reg) (n : Nibble) : fieldN (formatXYN op x y n) = n := by
  have h := extract_extract (formatXYN op x y n) (a := 0) (l := 8) (b := 0) (k := 4) (by omega)
  rw [show (formatXYN op x y n).extractLsb' 0 8 = (y ++ n : Byte) from formatXNN_nn op x (y ++ n)] at h
  exact h.symm.trans (extract_append_low y n)

@[simp] theorem formatNNN_opcode (op : Nibble) (nnn : Addr) : fieldOpcode (formatNNN op nnn) = op :=
  extract_append_high op nnn

@[simp] theorem formatNNN_nnn (op : Nibble) (nnn : Addr) : fieldNNN (formatNNN op nnn) = nnn :=
  extract_append_low op nnn

/-- A word is its two bytes, as the fetch composes them (20_memory.md R68). -/
theorem wordOfBytes_bytes (w : Word) : wordOfBytes (highByte w) (lowByte w) = w := by
  apply BitVec.eq_of_getLsbD_eq
  intro i h
  simp only [wordOfBytes, highByte, lowByte, BitVec.getLsbD_append, BitVec.getLsbD_extractLsb']
  by_cases hi : i < 8
  · simp [hi]
  · simp [hi, show i - 8 < 8 by omega, show 8 + (i - 8) = i by omega]

end Sys2Proof
end

