-- ==== Sys2Proof/Laws/PerInstr.lean ====
section
/-! SUPPORT. The family RoundTrip, instruction by instruction: the decoder reads back what the encoder writes
(30_encoding.md R97, R98). -/

namespace Sys2Proof.Laws.RoundTrip

/-- Decoding the canonical word of an instruction gives the instruction back, every operand included. -/
def Statement (i : Instr) : Prop := decodeWord (encode i) = .instr i

theorem cls : Statement .cls := by simp [Statement, encode, decodeWord, decodeFamily0]
theorem ret : Statement .ret := by simp [Statement, encode, decodeWord, decodeFamily0]
theorem jmp (nnn : Addr) : Statement (.jmp nnn) := by simp [Statement, encode, decodeWord]
theorem call (nnn : Addr) : Statement (.call nnn) := by simp [Statement, encode, decodeWord]
theorem seImm (x : Reg) (nn : Byte) : Statement (.seImm x nn) := by simp [Statement, encode, decodeWord]
theorem sneImm (x : Reg) (nn : Byte) : Statement (.sneImm x nn) := by simp [Statement, encode, decodeWord]
theorem seReg (x : Reg) (y : Reg) : Statement (.seReg x y) := by simp [Statement, encode, decodeWord]
theorem ldImm (x : Reg) (nn : Byte) : Statement (.ldImm x nn) := by simp [Statement, encode, decodeWord]
theorem addImm (x : Reg) (nn : Byte) : Statement (.addImm x nn) := by simp [Statement, encode, decodeWord]
theorem ldReg (x : Reg) (y : Reg) : Statement (.ldReg x y) := by simp [Statement, encode, decodeWord, decodeFamily8]
theorem orReg (x : Reg) (y : Reg) : Statement (.orReg x y) := by simp [Statement, encode, decodeWord, decodeFamily8]
theorem andReg (x : Reg) (y : Reg) : Statement (.andReg x y) := by simp [Statement, encode, decodeWord, decodeFamily8]
theorem xorReg (x : Reg) (y : Reg) : Statement (.xorReg x y) := by simp [Statement, encode, decodeWord, decodeFamily8]
theorem addReg (x : Reg) (y : Reg) : Statement (.addReg x y) := by simp [Statement, encode, decodeWord, decodeFamily8]
theorem sub (x : Reg) (y : Reg) : Statement (.sub x y) := by simp [Statement, encode, decodeWord, decodeFamily8]
theorem shr (x : Reg) : Statement (.shr x) := by simp [Statement, encode, decodeWord, decodeFamily8]
theorem subn (x : Reg) (y : Reg) : Statement (.subn x y) := by simp [Statement, encode, decodeWord, decodeFamily8]
theorem shl (x : Reg) : Statement (.shl x) := by simp [Statement, encode, decodeWord, decodeFamily8]
theorem sneReg (x : Reg) (y : Reg) : Statement (.sneReg x y) := by simp [Statement, encode, decodeWord]
theorem ldI (nnn : Addr) : Statement (.ldI nnn) := by simp [Statement, encode, decodeWord]
theorem jmpV0 (nnn : Addr) : Statement (.jmpV0 nnn) := by simp [Statement, encode, decodeWord]
theorem rnd (x : Reg) (nn : Byte) : Statement (.rnd x nn) := by simp [Statement, encode, decodeWord]
theorem drw (x : Reg) (y : Reg) (n : Nibble) : Statement (.drw x y n) := by simp [Statement, encode, decodeWord]
theorem skp (x : Reg) : Statement (.skp x) := by simp [Statement, encode, decodeWord, decodeFamilyE]
theorem sknp (x : Reg) : Statement (.sknp x) := by simp [Statement, encode, decodeWord, decodeFamilyE]
theorem ldFromDt (x : Reg) : Statement (.ldFromDt x) := by simp [Statement, encode, decodeWord, decodeFamilyF]
theorem ldKey (x : Reg) : Statement (.ldKey x) := by simp [Statement, encode, decodeWord, decodeFamilyF]
theorem ldDt (x : Reg) : Statement (.ldDt x) := by simp [Statement, encode, decodeWord, decodeFamilyF]
theorem ldSt (x : Reg) : Statement (.ldSt x) := by simp [Statement, encode, decodeWord, decodeFamilyF]
theorem addI (x : Reg) : Statement (.addI x) := by simp [Statement, encode, decodeWord, decodeFamilyF]
theorem ldFont (x : Reg) : Statement (.ldFont x) := by simp [Statement, encode, decodeWord, decodeFamilyF]
theorem bcd (x : Reg) : Statement (.bcd x) := by simp [Statement, encode, decodeWord, decodeFamilyF]
theorem store (x : Reg) : Statement (.store x) := by simp [Statement, encode, decodeWord, decodeFamilyF]
theorem load (x : Reg) : Statement (.load x) := by simp [Statement, encode, decodeWord, decodeFamilyF]

end Sys2Proof.Laws.RoundTrip
end

