-- ==== Sys2Proof/Safety.lean ====
section
/-! DEFINITION. What counts as a safe run, in the terms the claims use: the invariant of every event
(spec/10_state.md R49), a run gone wrong (60_exceptions.md R226), a run that has ended (70_reset_and_hazards.md R270),
and the frames of the instructions. -/

namespace Sys2Proof.Machine

/-- The invariant of every event: RAM keeps its canonical form (every address below 4096) and `0 <= SP <= 16`
(10_state.md R29, R49). The other bounds of R49 are the widths of the fields. -/
def State.Inv (s : State) : Prop := s.mem.wf = true ∧ s.sp.toNat ≤ 16

/-- Reaching a latched fault is "gone wrong" (60_exceptions.md R226). -/
def State.goneWrong (s : State) : Prop := s.fault ≠ .none

/-- The recommended end of a run: `FAULT = None` and the word at `pc` is `1NNN` with `nnn = pc`
(70_reset_and_hazards.md R270). -/
def State.ended (s : State) : Prop := s.fault = .none ∧ decodeWord s.fetchWord = .instr (.jmp s.pc)

/-! ### Frames -/

/-- Every byte of RAM reads as before. -/
def SameBytes (s t : State) : Prop := ∀ a : Nat, t.memRead a = s.memRead a

/-- Every general register but those in `w` reads as before. -/
def SameRegsBut (w : Reg → Prop) (s t : State) : Prop := ∀ r : Reg, ¬ w r → t.readV r = s.readV r

/-- The stack, its pointer and the two timers are unchanged. -/
def SameStackTimers (s t : State) : Prop := t.sp = s.sp ∧ t.stack = s.stack ∧ t.dt = s.dt ∧ t.st = s.st

/-- The framebuffer and `REDRAW` are unchanged. -/
def SameDisplay (s t : State) : Prop := t.fb = s.fb ∧ t.redraw = s.redraw

/-- Nothing is latched, nothing is emitted, and the environment's side (sampled inputs, pending events, numbering of
free samples) is unchanged. -/
def SameBoundary (s t : State) : Prop :=
  t.fault = s.fault ∧ t.outputs = s.outputs ∧ t.keys = s.keys ∧ t.rnd = s.rnd ∧ t.events = s.events ∧
    t.sampleNo = s.sampleNo

/-- The frame of an instruction that writes only `pc` and the general registers in `w`. -/
def OnlyRegs (w : Reg → Prop) (s t : State) : Prop :=
  SameRegsBut w s t ∧ t.i = s.i ∧ SameStackTimers s t ∧ SameBytes s t ∧ SameDisplay s t ∧ SameBoundary s t

/-- The frame of an instruction that writes only `pc`. -/
def OnlyPc (s t : State) : Prop := OnlyRegs (fun _ => False) s t

/-- `pc` has advanced by 2 modulo 4096 (10_state.md R26, R27). -/
def PcPlus2 (s t : State) : Prop := t.pc.toNat = (s.pc.toNat + 2) % 4096

/-- `pc` has advanced by 4 modulo 4096 (10_state.md R26, R27). -/
def PcPlus4 (s t : State) : Prop := t.pc.toNat = (s.pc.toNat + 4) % 4096

/-- The skip outcome: plus 4 when the condition holds, plus 2 otherwise (10_state.md R26). -/
def SkipsIff (cond : Prop) (s t : State) : Prop := (cond → PcPlus4 s t) ∧ (¬ cond → PcPlus2 s t)

end Sys2Proof.Machine
end

