-- ==== Sys2Proof/Certificates/Slice0/Obligations.lean ====
section
/-! DEFINITION. The statements for the provers. Each docstring names the rule of spec/ it formalises; where a statement
rests on a choice of the model, the docstring names the log entry. `OnlyRegs`, `OnlyPc`, `PcPlus2`, ... are the frames
of Sys2Proof/Safety.lean. -/

open Sys2Proof Sys2Proof.Machine

namespace Sys2Proof.Claims

/-- The word `w` has operands `x`, `y`, `n`, `nn`, `nnn` of 30_encoding.md R91, written as arithmetic on the word. -/
def xOf (w : Word) : Reg := BitVec.ofNat 4 (w.toNat / 256)
def yOf (w : Word) : Reg := BitVec.ofNat 4 (w.toNat / 16)
def nOf (w : Word) : Nibble := BitVec.ofNat 4 w.toNat
def nnOf (w : Word) : Byte := BitVec.ofNat 8 w.toNat
def nnnOf (w : Word) : Addr := BitVec.ofNat 12 w.toNat

/-- Every word of a row, `w & mask = pat`, decodes to the instruction `f` makes of its fields. -/
def RowIs (pat mask : Word) (f : Word → Instr) : Prop := ∀ w : Word, w &&& mask = pat → decodeWord w = .instr (f w)

/-- The big-endian word at `pc`, as 20_memory.md R68 computes it. -/
def wordAtPc (s : State) : Word :=
  BitVec.ofNat 16 ((s.memRead s.pc.toNat).toNat * 256 + (s.memRead (s.pc.toNat + 1)).toNat)

/-- Sprite pixel (r, c) is a 1 bit: `b[7 - c]` with `b = MemRead(I + r)` (43_display.md R191). -/
def spriteBit (s : State) (r c : Nat) : Prop := (s.memRead (s.i.toNat + r)).getLsbD (7 - c) = true

/-- The cell under sprite pixel (r, c) of a sprite drawn at (X, Y): `k(r, c)` of 43_display.md R192. -/
def cellUnder (X Y : Byte) (r c : Nat) : Nat := (Y.toNat + r) % 32 * 64 + (X.toNat + c) % 64

/-- `S[k]` of 43_display.md R193: cell `k` is under a 1 bit of the sprite. -/
def lit (s : State) (x y : Reg) (n : Nibble) (k : Nat) : Prop :=
  ∃ r < n.toNat, ∃ c < 8, spriteBit s r c ∧ cellUnder (s.readV x) (s.readV y) r c = k

/-- The registers an instruction may write (10_state.md R22: the columns "w" and "f", and the row of `FX65`). -/
def mayWrite : Instr → Reg → Prop
  | .ldImm x _, r | .addImm x _, r | .ldReg x _, r | .orReg x _, r | .andReg x _, r | .xorReg x _, r => r = x
  | .addReg x _, r | .sub x _, r | .subn x _, r | .shr x, r | .shl x, r => r = x ∨ r = Reg.F
  | .rnd x _, r | .ldFromDt x, r | .ldKey x, r => r = x
  | .drw _ _ _, r => r = Reg.F
  | .load x, r => r.toNat ≤ x.toNat
  | .cls, _ | .ret, _ | .jmp _, _ | .call _, _ | .seImm _ _, _ | .sneImm _ _, _ | .seReg _ _, _ | .sneReg _ _, _
  | .ldI _, _ | .jmpV0 _, _ | .skp _, _ | .sknp _, _ | .ldDt _, _ | .ldSt _, _ | .addI _, _ | .ldFont _, _
  | .bcd _, _ | .store _, _ => False

/-- `CALL nnn` executed `n` times in a row. -/
def callTimes (nnn : Addr) : Nat → State → Host.Outcome State Fault Refusal
  | 0, s     => .next s
  | n + 1, s => match exec (.call nnn) s with
    | .next u => callTimes nnn n u
    | o       => o

/-- The instructions that read the key inputs (40_flow.md R120). -/
def readsKeys : Instr → Bool
  | .skp _ | .sknp _ | .ldKey _ => true
  | _ => false

/-- The instruction that reads the random input (40_flow.md R120). -/
def readsRnd : Instr → Bool
  | .rnd _ _ => true
  | _ => false

end Sys2Proof.Claims

open Sys2Proof.Claims

/-! ### Encoding and decoding -/

/-- A few words written out from 30_encoding.md R98, one or two a family, don't-care digits among them (R96). -/
def Obligations.DecodeSampleWords : Prop :=
  decodeWord 0x6A05#16 = .instr (.ldImm 0xA#4 0x05#8) ∧
  decodeWord 0x05EE#16 = .instr .ret ∧
  decodeWord 0xBFFF#16 = .instr (.jmpV0 0xFFF#12) ∧
  decodeWord 0x512F#16 = .instr (.seReg 0x1#4 0x2#4) ∧
  decodeWord 0x8346#16 = .instr (.shr 0x3#4) ∧
  decodeWord 0xD125#16 = .instr (.drw 0x1#4 0x2#4 0x5#4) ∧
  decodeWord 0xE5A1#16 = .instr (.sknp 0x5#4) ∧
  decodeWord 0xF355#16 = .instr (.store 0x3#4) ∧
  decodeWord 0x0123#16 = .unknown .family0 ∧
  decodeWord 0x8AB8#16 = .unknown .family8

/-- Decoding what the encoder writes gives the instruction back, every operand at every value, from the word and from
the bytes as the hardware stores them (30_encoding.md R97, R98; 20_memory.md R68). -/
def Obligations.DecodeEncodeAgree : Prop :=
  (∀ i : Instr, Laws.RoundTrip.Statement i) ∧
  ∀ (i : Instr) (rest : List Byte), decode (encodeBytes i ++ rest) = some (.instr i, rest)

/-- Every row of 30_encoding.md R98, as mask and match, with the fields of R91: the words that select it decode to its
instruction; don't-care digits (R96) are free because the mask does not examine them. A word that selects no row is
unknown. -/
def Obligations.EveryRowDecodesToItsInstruction : Prop :=
  RowIs 0x00E0 0xF0FF (fun _ => .cls) ∧
  RowIs 0x00EE 0xF0FF (fun _ => .ret) ∧
  RowIs 0x1000 0xF000 (fun w => .jmp (nnnOf w)) ∧
  RowIs 0x2000 0xF000 (fun w => .call (nnnOf w)) ∧
  RowIs 0x3000 0xF000 (fun w => .seImm (xOf w) (nnOf w)) ∧
  RowIs 0x4000 0xF000 (fun w => .sneImm (xOf w) (nnOf w)) ∧
  RowIs 0x5000 0xF000 (fun w => .seReg (xOf w) (yOf w)) ∧
  RowIs 0x6000 0xF000 (fun w => .ldImm (xOf w) (nnOf w)) ∧
  RowIs 0x7000 0xF000 (fun w => .addImm (xOf w) (nnOf w)) ∧
  RowIs 0x8000 0xF00F (fun w => .ldReg (xOf w) (yOf w)) ∧
  RowIs 0x8001 0xF00F (fun w => .orReg (xOf w) (yOf w)) ∧
  RowIs 0x8002 0xF00F (fun w => .andReg (xOf w) (yOf w)) ∧
  RowIs 0x8003 0xF00F (fun w => .xorReg (xOf w) (yOf w)) ∧
  RowIs 0x8004 0xF00F (fun w => .addReg (xOf w) (yOf w)) ∧
  RowIs 0x8005 0xF00F (fun w => .sub (xOf w) (yOf w)) ∧
  RowIs 0x8006 0xF00F (fun w => .shr (xOf w)) ∧
  RowIs 0x8007 0xF00F (fun w => .subn (xOf w) (yOf w)) ∧
  RowIs 0x800E 0xF00F (fun w => .shl (xOf w)) ∧
  RowIs 0x9000 0xF000 (fun w => .sneReg (xOf w) (yOf w)) ∧
  RowIs 0xA000 0xF000 (fun w => .ldI (nnnOf w)) ∧
  RowIs 0xB000 0xF000 (fun w => .jmpV0 (nnnOf w)) ∧
  RowIs 0xC000 0xF000 (fun w => .rnd (xOf w) (nnOf w)) ∧
  RowIs 0xD000 0xF000 (fun w => .drw (xOf w) (yOf w) (nOf w)) ∧
  RowIs 0xE09E 0xF0FF (fun w => .skp (xOf w)) ∧
  RowIs 0xE0A1 0xF0FF (fun w => .sknp (xOf w)) ∧
  RowIs 0xF007 0xF0FF (fun w => .ldFromDt (xOf w)) ∧
  RowIs 0xF00A 0xF0FF (fun w => .ldKey (xOf w)) ∧
  RowIs 0xF015 0xF0FF (fun w => .ldDt (xOf w)) ∧
  RowIs 0xF018 0xF0FF (fun w => .ldSt (xOf w)) ∧
  RowIs 0xF01E 0xF0FF (fun w => .addI (xOf w)) ∧
  RowIs 0xF029 0xF0FF (fun w => .ldFont (xOf w)) ∧
  RowIs 0xF033 0xF0FF (fun w => .bcd (xOf w)) ∧
  RowIs 0xF055 0xF0FF (fun w => .store (xOf w)) ∧
  RowIs 0xF065 0xF0FF (fun w => .load (xOf w)) ∧
  (∀ w : Word, (∀ i : Instr, w &&& i.row.mask ≠ i.row.pat) → ∃ f, decodeWord w = .unknown f)

/-- The table and the decoder accept the same words: a decoded instruction's row selects the word, no two rows select
one word, and a word that selects no row is unknown (30_encoding.md R98). -/
def Obligations.OpcodeTableRowsAreExclusive : Prop :=
  opcodeTable.length = 34 ∧
  (∀ (w : Word) (i : Instr), decodeWord w = .instr i → i.row ∈ opcodeTable ∧ i.row.selects w = true) ∧
  (∀ r ∈ opcodeTable, ∀ r' ∈ opcodeTable, ∀ w : Word, r.selects w = true → r'.selects w = true → r = r') ∧
  (∀ w : Word, (∃ f, decodeWord w = .unknown f) ↔ wordIsInstr w = false)

/-- The unknown words, family by family (30_encoding.md R99's table). -/
def Obligations.UnknownWordsByFamily : Prop :=
  ∀ w : Word,
    (decodeWord w = .unknown .family0 ↔ w.toNat / 4096 = 0 ∧ w.toNat % 256 ∉ [0xE0, 0xEE]) ∧
    (decodeWord w = .unknown .family8 ↔
      w.toNat / 4096 = 8 ∧ w.toNat % 16 ∈ [0x8, 0x9, 0xA, 0xB, 0xC, 0xD, 0xF]) ∧
    (decodeWord w = .unknown .familyE ↔ w.toNat / 4096 = 0xE ∧ w.toNat % 256 ∉ [0x9E, 0xA1]) ∧
    (decodeWord w = .unknown .familyF ↔ w.toNat / 4096 = 0xF ∧
      w.toNat % 256 ∉ [0x07, 0x0A, 0x15, 0x18, 0x1E, 0x29, 0x33, 0x55, 0x65])

/-! ### The step -/

/-- When the next event is a `Step`, the bytes at `pc` decode to `i` and no fault is latched, the step is `exec i` on
the state with that event taken off the queue and its inputs sampled (40_flow.md R120, 20_memory.md R68; the queue is
the model's, log 1). -/
def Obligations.StepRunsTheDecodedInstruction : Prop :=
  ∀ (s : State) (keys : Keys) (rnd : Byte) (rest : List Event) (i : Instr),
    s.events = .step keys rnd :: rest → s.fault = .none → decodeWord (wordAtPc s) = .instr i →
      step s = exec i { s with events := rest, keys := keys, rnd := rnd }

/-- With no event pending, the step is a `Step` on inputs about which nothing is known, and the sample counter moves
on (10_state.md R41, R42; the model's choice, log 1, log 2, log 3). -/
def Obligations.IdleStepSamplesFreeInputs : Prop :=
  ∀ (s : State) (i : Instr), s.events = [] → s.fault = .none → decodeWord (wordAtPc s) = .instr i →
    step s = exec i { s with keys := Config.freeKeys s.sampleNo, rnd := Config.freeRnd s.sampleNo,
                             sampleNo := s.sampleNo + 1 }

/-- The soft failure: exactly one `Unknown(w, a)`, `pc` advances by 2, nothing else (60_exceptions.md R220). -/
def Obligations.UnknownWordIsSkippedWithDiagnostic : Prop :=
  ∀ (s : State) (keys : Keys) (rnd : Byte) (f : UnknownFamily),
    s.fault = .none → decodeWord (wordAtPc s) = .unknown f →
      ∃ t, transition (.step keys rnd) s = .next t ∧
        t = { s with pc := t.pc, outputs := .unknown (wordAtPc s) s.pc :: s.outputs, keys := keys, rnd := rnd } ∧
        PcPlus2 s t

/-- The faulted state: a `Step` is a no-op; `Tick` does what it does without the fault, `RedrawAck` and the read port
keep working; only `Reset` clears `FAULT` (60_exceptions.md R226). -/
def Obligations.FaultedStateIsFrozen : Prop :=
  ∀ s : State, s.fault ≠ .none →
    (∀ keys rnd, transition (.step keys rnd) s = .next s) ∧
    (∃ u, transition .tick { s with fault := .none } = .next u ∧ transition .tick s = .next { u with fault := s.fault }) ∧
    transition .redrawAck s = .next { s with redraw := false } ∧
    (∀ k : BitVec 11, s.fbRead k = s.fb.getLsbD k.toNat) ∧
    (∃ t, transition .reset s = .next t ∧ t.fault = .none) ∧
    (∀ (e : Event) (t : State), transition e s = .next t → e ≠ .reset → t.fault = s.fault)

/-- The machine is total: whatever the state, a step answers a next state (00_scope.md R10 "each is atomic and total";
60_exceptions.md R222 "No instruction raises a fatal runtime error during normal execution"). -/
def Obligations.EveryStepAnswersANextState : Prop :=
  (∀ (i : Instr) (s : State), ∃ t, exec i s = .next t) ∧
  (∀ (e : Event) (s : State), ∃ t, transition e s = .next t) ∧
  (∀ s : State, ∃ t, step s = .next t)

/-- Placing a table word and stepping runs the instruction the decoder reads from it, from every state with canonical
RAM (the model's `withFetchWord`, log 17). -/
def Obligations.PlacedWordRunsNext : Prop :=
  ∀ (s : State) (nbits w : Nat) (i : Instr), s.mem.wf = true → decodeTableWord nbits w = some i →
    step (s.withFetchWord nbits w) =
      exec i { s with mem := (s.withFetchWord nbits w).mem, fault := .none }

/-! ### Invariants and reset -/

/-- Every step keeps the invariant: `SP <= 16` (10_state.md R49; its other bounds are the widths of the fields), and RAM
canonical and within 4096 addresses (the form is the model's, log 6). -/
def Obligations.EveryStepKeepsTheInvariant : Prop :=
  ∀ s t : State, s.Inv → step s = .next t → t.Inv

/-- The invariant holds right after reset. -/
def Obligations.ResetMeetsTheInvariant : Prop := State.reset.Inv

/-- What reset leaves (10_state.md R48): the font at FONT_BASE, 0 in every other byte, `PC = 0x200`, everything else 0. -/
def Obligations.ResetValues : Prop :=
  (∀ a < 4096, State.reset.memRead a = if a < 80 then Config.fontData.getD a 0 else 0) ∧
  Config.fontData.length = 80 ∧ Config.fontBase = 0 ∧
  State.reset.pc = 0x200 ∧ (∀ r, State.reset.readV r = 0) ∧ State.reset.i = 0 ∧ State.reset.sp = 0 ∧
  (∀ k, State.reset.stackEntry k = 0) ∧ State.reset.dt = 0 ∧ State.reset.st = 0 ∧
  (∀ k : Nat, State.reset.fb.getLsbD k = false) ∧ State.reset.redraw = false ∧ State.reset.fault = .none

/-- The `Reset` event, from any state: every piece of the block's state takes its reset value, and nothing is emitted
(70_reset_and_hazards.md R260). -/
def Obligations.ResetEventFromAnyState : Prop :=
  ∀ s : State, ∃ t, transition .reset s = .next t ∧
    (∀ a : Nat, t.memRead a = if a % 4096 < 80 then Config.fontData.getD (a % 4096) 0 else 0) ∧
    t.pc = 0x200 ∧ (∀ r, t.readV r = 0) ∧ t.i = 0 ∧ t.sp = 0 ∧ (∀ k, t.stackEntry k = 0) ∧ t.dt = 0 ∧ t.st = 0 ∧
    t.fb = 0 ∧ t.redraw = false ∧ t.fault = .none ∧ t.outputs = s.outputs

/-- The launch state: after `Reset` and the loader's events the ROM stands at 0x200, every other byte is as after
reset, nothing else has changed; a ROM over 3584 bytes is not loaded at all (70_reset_and_hazards.md R263, R266). The
ascending order of the loads is the model's choice, log 19. -/
def Obligations.LoaderPlacesTheRom : Prop :=
  ∀ (rom : List Byte) (rest : List Event),
    (rom.length > 3584 → romLoads rom = none) ∧
    (rom.length ≤ 3584 → ∃ evs t, romLoads rom = some evs ∧
      Host.Core.run Sys2Proof.core evs.length { State.reset with events := evs ++ rest } = .next t ∧
      (∀ (k : Nat) (h : k < rom.length), State.memRead t (0x200 + k) = rom[k]) ∧
      (∀ a < 4096, a < 0x200 ∨ 0x200 + rom.length ≤ a → State.memRead t a = State.reset.memRead a) ∧
      t = { State.reset with mem := State.mem t, events := rest })

/-! ### Control transfer -/

/-- RET (40_flow.md R122). With an entry on the stack `SP` goes down by 1 and `pc` is the popped call site plus 2; the
entry is not erased, nothing else changes. On the empty stack the underflow is latched and nothing else changes. -/
def Obligations.RetPopsTheCallSite : Prop :=
  ∀ s : State, s.sp.toNat ≤ 16 →
    (1 ≤ s.sp.toNat → ∃ t, exec .ret s = .next t ∧ t.sp.toNat = s.sp.toNat - 1 ∧
      (∀ (k : Nat) (h : k < 16), s.sp.toNat = k + 1 → t.pc.toNat = ((s.stack[k]).toNat + 2) % 4096) ∧
      t = { s with sp := t.sp, pc := t.pc } ∧ SameBytes s t) ∧
    (s.sp.toNat = 0 → exec .ret s = .next { s with fault := .stackUnderflow s.pc })

/-- CALL (40_flow.md R124). With room on the stack the call site, not `a + 2`, goes to `STACK[SP]`, every other entry
is kept, `SP` goes up by 1, `pc` is `nnn`, nothing else changes. On the full stack the overflow is latched and nothing
else changes. -/
def Obligations.CallPushesTheCallSite : Prop :=
  ∀ (nnn : Addr) (s : State), s.sp.toNat ≤ 16 →
    (s.sp.toNat < 16 → ∃ t, exec (.call nnn) s = .next t ∧ t.sp.toNat = s.sp.toNat + 1 ∧ t.pc = nnn ∧
      (∀ (k : Nat) (h : k < 16), t.stack[k] = if k = s.sp.toNat then s.pc else s.stack[k]) ∧
      t = { s with sp := t.sp, pc := t.pc, stack := t.stack } ∧ SameBytes s t) ∧
    (s.sp.toNat = 16 → exec (.call nnn) s = .next { s with fault := .stackOverflow s.pc })

/-- The two stack faults (60_exceptions.md R224): the latch takes the address of the instruction and nothing else
changes, `pc` included; the fault lines then show the cause and that address (R221, 10_state.md R47). -/
def Obligations.StackFaultsLatchAndChangeNothingElse : Prop :=
  (∀ (nnn : Addr) (s : State), s.sp.toNat = 16 →
    ∃ t, exec (.call nnn) s = .next t ∧ t = { s with fault := .stackOverflow s.pc } ∧
      t.faultLine = true ∧ t.faultCause = 1 ∧ t.faultPc = some s.pc) ∧
  (∀ s : State, s.sp.toNat = 0 →
    ∃ t, exec .ret s = .next t ∧ t = { s with fault := .stackUnderflow s.pc } ∧
      t.faultLine = true ∧ t.faultCause = 2 ∧ t.faultPc = some s.pc)

/-- JMP nnn (40_flow.md R123) and JMP V0, nnn (R125): the target, `nnn` and `(nnn + V[0]) mod 4096`; nothing else
changes. -/
def Obligations.JumpsSetPcOnly : Prop :=
  ∀ (nnn : Addr) (s : State),
    (∃ t, exec (.jmp nnn) s = .next t ∧ t.pc = nnn ∧ OnlyPc s t) ∧
    (∃ t, exec (.jmpV0 nnn) s = .next t ∧ t.pc.toNat = (nnn.toNat + (s.readV 0).toNat) % 4096 ∧ OnlyPc s t)

/-- The four compare skips (40_flow.md R126 to R129): by 4 when the condition holds, by 2 otherwise, modulo 4096;
nothing else changes. -/
def Obligations.CompareSkips : Prop :=
  ∀ (x y : Reg) (nn : Byte) (s : State),
    (∃ t, exec (.seImm x nn) s = .next t ∧ SkipsIff (s.readV x = nn) s t ∧ OnlyPc s t) ∧
    (∃ t, exec (.sneImm x nn) s = .next t ∧ SkipsIff (s.readV x ≠ nn) s t ∧ OnlyPc s t) ∧
    (∃ t, exec (.seReg x y) s = .next t ∧ SkipsIff (s.readV x = s.readV y) s t ∧ OnlyPc s t) ∧
    (∃ t, exec (.sneReg x y) s = .next t ∧ SkipsIff (s.readV x ≠ s.readV y) s t ∧ OnlyPc s t)

/-- `CALL nnn` then, wherever the subroutine has gone to, `RET`: `pc` is call site + 2, `SP` as before the call, and
the live stack entries are untouched (40_flow.md R122, R124 and the property quoted there). -/
def Obligations.CallThenRetComesBack : Prop :=
  ∀ (nnn p : Addr) (s : State), s.sp.toNat < 16 →
    ∃ t u, exec (.call nnn) s = .next t ∧ exec .ret { t with pc := p } = .next u ∧
      u.pc.toNat = (s.pc.toNat + 2) % 4096 ∧ u.sp = s.sp ∧
      ∀ (k : Nat) (h : k < 16), k < s.sp.toNat → u.stack[k] = s.stack[k]

/-- A CALL to itself, repeated: up to 16 succeed from an empty stack and fill the entries in order; the seventeenth
overflows (40_flow.md R124, corner cases). -/
def Obligations.SixteenNestedCalls : Prop :=
  ∀ (nnn : Addr) (s : State) (n : Nat), s.sp = 0 → s.fault = .none → s.pc = nnn → n ≤ 16 →
    ∃ t, callTimes nnn n s = .next t ∧ t.sp.toNat = n ∧ t.fault = .none ∧ t.pc = nnn ∧
      (∀ (k : Nat) (h : k < 16), k < n → t.stack[k] = nnn) ∧
      (n = 16 → ∃ u, exec (.call nnn) t = .next u ∧ u.fault = .stackOverflow nnn)

/-! ### Load, arithmetic, logic, shift, random -/

/-- LD Vx, nn (41_alu.md R140), ADD Vx, nn without carry flag (R141), LD Vx, Vy (R142). -/
def Obligations.LoadAndAddImmediate : Prop :=
  ∀ (x y : Reg) (nn : Byte) (s : State),
    (∃ t, exec (.ldImm x nn) s = .next t ∧ t.readV x = nn ∧ OnlyRegs (· = x) s t ∧ PcPlus2 s t) ∧
    (∃ t, exec (.addImm x nn) s = .next t ∧ (t.readV x).toNat = ((s.readV x).toNat + nn.toNat) % 256 ∧
      OnlyRegs (· = x) s t ∧ PcPlus2 s t) ∧
    (∃ t, exec (.ldReg x y) s = .next t ∧ t.readV x = s.readV y ∧ OnlyRegs (· = x) s t ∧ PcPlus2 s t)

/-- OR, AND, XOR, bit by bit; `VF` is written only when it is `x` (41_alu.md R143, R144, R145). -/
def Obligations.BitwiseLogic : Prop :=
  ∀ (x y : Reg) (s : State),
    (∃ t, exec (.orReg x y) s = .next t ∧
      (∀ b : Nat, (t.readV x).getLsbD b = ((s.readV x).getLsbD b || (s.readV y).getLsbD b)) ∧
      OnlyRegs (· = x) s t ∧ PcPlus2 s t) ∧
    (∃ t, exec (.andReg x y) s = .next t ∧
      (∀ b : Nat, (t.readV x).getLsbD b = ((s.readV x).getLsbD b && (s.readV y).getLsbD b)) ∧
      OnlyRegs (· = x) s t ∧ PcPlus2 s t) ∧
    (∃ t, exec (.xorReg x y) s = .next t ∧
      (∀ b : Nat, (t.readV x).getLsbD b = ((s.readV x).getLsbD b ^^ (s.readV y).getLsbD b)) ∧
      OnlyRegs (· = x) s t ∧ PcPlus2 s t)

/-- ADD Vx, Vy (41_alu.md R147), all four aliasing cases: the carry goes to `VF` first; the sum reads the new flag
where an operand is `VF`, and overwrites it where `x` is F. -/
def Obligations.AddWithCarryOut : Prop :=
  ∀ (x y : Reg) (s : State) (c : Nat),
    c = (if (s.readV x).toNat + (s.readV y).toNat > 255 then 1 else 0) →
    ∃ t, exec (.addReg x y) s = .next t ∧ (x ≠ Reg.F → (t.readV Reg.F).toNat = c) ∧
      (t.readV x).toNat =
        ((if x = Reg.F then c else (s.readV x).toNat) + (if y = Reg.F then c else (s.readV y).toNat)) % 256 ∧
      OnlyRegs (fun r => r = x ∨ r = Reg.F) s t ∧ PcPlus2 s t

/-- SUB Vx, Vy (41_alu.md R148), all four aliasing cases; the flag is 1 when no borrow occurs, equality included. -/
def Obligations.SubtractNoBorrowFlag : Prop :=
  ∀ (x y : Reg) (s : State) (b : Nat),
    b = (if (s.readV y).toNat > (s.readV x).toNat then 0 else 1) →
    ∃ t, exec (.sub x y) s = .next t ∧ (x ≠ Reg.F → (t.readV Reg.F).toNat = b) ∧
      (t.readV x).toNat =
        ((if x = Reg.F then b else (s.readV x).toNat) + 256 - (if y = Reg.F then b else (s.readV y).toNat)) % 256 ∧
      OnlyRegs (fun r => r = x ∨ r = Reg.F) s t ∧ PcPlus2 s t

/-- SUBN Vx, Vy (41_alu.md R150), all four aliasing cases. -/
def Obligations.ReverseSubtractNoBorrowFlag : Prop :=
  ∀ (x y : Reg) (s : State) (b : Nat),
    b = (if (s.readV y).toNat < (s.readV x).toNat then 0 else 1) →
    ∃ t, exec (.subn x y) s = .next t ∧ (x ≠ Reg.F → (t.readV Reg.F).toNat = b) ∧
      (t.readV x).toNat =
        ((if y = Reg.F then b else (s.readV y).toNat) + 256 - (if x = Reg.F then b else (s.readV x).toNat)) % 256 ∧
      OnlyRegs (fun r => r = x ∨ r = Reg.F) s t ∧ PcPlus2 s t

/-- SHR Vx (41_alu.md R149): bit 0 to `VF` first, then the logical shift by one, of the new `VF` when `x` is F. -/
def Obligations.ShiftRight : Prop :=
  ∀ (x : Reg) (s : State),
    ∃ t, exec (.shr x) s = .next t ∧ (x ≠ Reg.F → (t.readV Reg.F).toNat = (s.readV x).toNat % 2) ∧
      (t.readV x).toNat = (if x = Reg.F then 0 else (s.readV x).toNat / 2) ∧
      OnlyRegs (fun r => r = x ∨ r = Reg.F) s t ∧ PcPlus2 s t

/-- SHL Vx (41_alu.md R151): bit 7 to `VF` first, then the shift by one, of the new `VF` when `x` is F. -/
def Obligations.ShiftLeft : Prop :=
  ∀ (x : Reg) (s : State),
    ∃ t, exec (.shl x) s = .next t ∧ (x ≠ Reg.F → (t.readV Reg.F).toNat = (s.readV x).toNat / 128) ∧
      (t.readV x).toNat = 2 * (if x = Reg.F then (s.readV x).toNat / 128 else (s.readV x).toNat) % 256 ∧
      OnlyRegs (fun r => r = x ∨ r = Reg.F) s t ∧ PcPlus2 s t

/-- RND Vx, nn (41_alu.md R155): `nn & (rnd mod 255)` for every input byte, so never 0xFF. -/
def Obligations.RandomIsMaskedMod255 : Prop :=
  ∀ (x : Reg) (nn : Byte) (s : State),
    ∃ t, exec (.rnd x nn) s = .next t ∧ (t.readV x).toNat = nn.toNat &&& (s.rnd.toNat % 255) ∧
      (t.readV x).toNat < 255 ∧ OnlyRegs (· = x) s t ∧ PcPlus2 s t

/-! ### Index register and memory -/

/-- LD I, nnn (42_index_memory.md R170), ADD I, Vx modulo 4096 without a flag (R171), LD F, Vx (R172): only `I` and
`pc` change. -/
def Obligations.IndexRegisterWrites : Prop :=
  ∀ (x : Reg) (nnn : Addr) (s : State),
    (∃ t, exec (.ldI nnn) s = .next t ∧ t.i = nnn ∧ OnlyPc s { t with i := s.i } ∧ PcPlus2 s t) ∧
    (∃ t, exec (.addI x) s = .next t ∧ t.i.toNat = (s.i.toNat + (s.readV x).toNat) % 4096 ∧
      OnlyPc s { t with i := s.i } ∧ PcPlus2 s t) ∧
    (∃ t, exec (.ldFont x) s = .next t ∧
      t.i.toNat = (Config.fontBase.toNat + 5 * (s.readV x).toNat) % 4096 ∧
      OnlyPc s { t with i := s.i } ∧ PcPlus2 s t)

/-- BCD Vx (42_index_memory.md R173): hundreds, tens, ones at `I`, `I + 1`, `I + 2` modulo 4096; every other byte, `I`
and every register are unchanged. -/
def Obligations.BcdStoresThreeDigits : Prop :=
  ∀ (x : Reg) (s : State), s.mem.wf = true →
    ∃ t, exec (.bcd x) s = .next t ∧
      (t.memRead (s.effAddr 0)).toNat = (s.readV x).toNat / 100 ∧
      (t.memRead (s.effAddr 1)).toNat = (s.readV x).toNat / 10 % 10 ∧
      (t.memRead (s.effAddr 2)).toNat = (s.readV x).toNat % 10 ∧
      (∀ a : Nat, (∀ k < 3, a % 4096 ≠ s.effAddr k % 4096) → t.memRead a = s.memRead a) ∧
      t = { s with mem := t.mem, pc := t.pc } ∧ PcPlus2 s t

/-- LD [I], Vx (42_index_memory.md R174): `V[0]..V[x]` at `I .. I + x` modulo 4096, every other byte unchanged, `I`
advanced by `x + 1`, no register written. -/
def Obligations.StoreRegisterRange : Prop :=
  ∀ (x : Reg) (s : State), s.mem.wf = true →
    ∃ t, exec (.store x) s = .next t ∧
      (∀ r : Reg, r.toNat ≤ x.toNat → t.memRead (s.effAddr r.toNat) = s.readV r) ∧
      (∀ a : Nat, (∀ k ≤ x.toNat, a % 4096 ≠ s.effAddr k % 4096) → t.memRead a = s.memRead a) ∧
      t.i.toNat = (s.i.toNat + x.toNat + 1) % 4096 ∧
      t = { s with mem := t.mem, i := t.i, pc := t.pc } ∧ PcPlus2 s t

/-- LD Vx, [I] (42_index_memory.md R175): `V[0]..V[x]` from `I .. I + x` modulo 4096, the registers above `x` and all
of RAM unchanged, `I` advanced by `x + 1`. -/
def Obligations.LoadRegisterRange : Prop :=
  ∀ (x : Reg) (s : State),
    ∃ t, exec (.load x) s = .next t ∧
      (∀ r : Reg, r.toNat ≤ x.toNat → t.readV r = s.memRead (s.effAddr r.toNat)) ∧
      (∀ r : Reg, x.toNat < r.toNat → t.readV r = s.readV r) ∧
      t.i.toNat = (s.i.toNat + x.toNat + 1) % 4096 ∧ SameBytes s t ∧
      t = { s with v := t.v, i := t.i, pc := t.pc } ∧ PcPlus2 s t

/-- Storing a register range, then loading it from the same address with whatever the registers hold by then, brings
the stored values back, and `I` ends at `I + x + 1` (42_index_memory.md R174, R175, the property quoted there). -/
def Obligations.StoreThenLoadRoundTrip : Prop :=
  ∀ (x : Reg) (s : State) (v' : Vector Byte 16), s.mem.wf = true →
    ∃ t u, exec (.store x) s = .next t ∧ exec (.load x) { t with i := s.i, v := v' } = .next u ∧
      (∀ r : Reg, r.toNat ≤ x.toNat → u.readV r = s.readV r) ∧ u.i = t.i ∧
      u.i.toNat = (s.i.toNat + x.toNat + 1) % 4096

/-- A store is seen by the very next fetch: when the stored range reaches the next two code bytes, the next word
fetched is made of the stored registers (20_memory.md R76). -/
def Obligations.StoreIsSeenByTheNextFetch : Prop :=
  ∀ (x r r' : Reg) (s t : State), s.mem.wf = true → exec (.store x) s = .next t →
    r.toNat ≤ x.toNat → r'.toNat ≤ x.toNat →
    (s.pc.toNat + 2) % 4096 = s.effAddr r.toNat % 4096 → (s.pc.toNat + 3) % 4096 = s.effAddr r'.toNat % 4096 →
      (t.fetchWord).toNat = (s.readV r).toNat * 256 + (s.readV r').toNat

/-! ### Display -/

/-- CLS (43_display.md R190): all 2048 cells 0, `REDRAW` set unconditionally; nothing else but `pc` changes. -/
def Obligations.ClearScreen : Prop :=
  ∀ s : State, ∃ t, exec .cls s = .next t ∧ (∀ k < 2048, t.fb.getLsbD k = false) ∧ t.redraw = true ∧
    OnlyPc s { t with fb := s.fb, redraw := s.redraw } ∧ PcPlus2 s t

/-- DRW Vx, Vy, n in closed form (43_display.md R191, R192): each cell is XORed with the sprite bits over it, `VF` is
the OR of "bit is 1 and cell was 1", `REDRAW` is set iff the sprite has a 1 bit; `I`, RAM and every other register are
unchanged. -/
def Obligations.DrawXorsTheSprite : Prop :=
  ∀ (x y : Reg) (n : Nibble) (s : State),
    ∃ t, exec (.drw x y n) s = .next t ∧
      (∀ k < 2048, (t.fb.getLsbD k = true ↔
        (s.fb.getLsbD k = true ∧ ¬ lit s x y n k) ∨ (s.fb.getLsbD k = false ∧ lit s x y n k))) ∧
      ((∃ k < 2048, lit s x y n k ∧ s.fb.getLsbD k = true) → t.readV Reg.F = 1) ∧
      (¬ (∃ k < 2048, lit s x y n k ∧ s.fb.getLsbD k = true) → t.readV Reg.F = 0) ∧
      (t.redraw = true ↔ s.redraw = true ∨ ∃ r < n.toNat, ∃ c < 8, spriteBit s r c) ∧
      OnlyRegs (· = Reg.F) s { t with fb := s.fb, redraw := s.redraw } ∧ PcPlus2 s t

/-- Drawing the same sprite at the same place twice (whatever the other registers hold by then; `x` or `y` may be F, if
the coordinates are put back) restores the framebuffer; the second draw reports a collision exactly when the first one
turned some cell on. (43_display.md R193 is the spec's own inference and says "iff the
sprite has at least one 1 bit"; under R191 that holds only where a cell under the sprite was off before. Log 18.) -/
def Obligations.DrawTwiceRestores : Prop :=
  ∀ (x y : Reg) (n : Nibble) (s : State), ∃ t, exec (.drw x y n) s = .next t ∧
    ∀ v' : Vector Byte 16, State.readV { t with v := v' } x = s.readV x → State.readV { t with v := v' } y = s.readV y →
      ∃ u, exec (.drw x y n) { t with v := v' } = .next u ∧ u.fb = s.fb ∧
        (u.readV Reg.F = 1 ↔ ∃ k < 2048, lit s x y n k ∧ s.fb.getLsbD k = false)

/-! ### Keypad, timers, boundary -/

/-- SKP and SKNP (44_keypad_timers.md R200, R201): the low nibble of `V[x]` names the key. -/
def Obligations.KeySkips : Prop :=
  ∀ (x : Reg) (s : State),
    (∃ t, exec (.skp x) s = .next t ∧ SkipsIff (s.keys.getLsbD ((s.readV x).toNat % 16) = true) s t ∧ OnlyPc s t) ∧
    (∃ t, exec (.sknp x) s = .next t ∧ SkipsIff (s.keys.getLsbD ((s.readV x).toNat % 16) = false) s t ∧ OnlyPc s t)

/-- LD Vx, K (44_keypad_timers.md R202): with no key pressed nothing changes at all; otherwise the highest pressed key
goes to `V[x]` and `pc` advances. -/
def Obligations.WaitForKey : Prop :=
  ∀ (x : Reg) (s : State),
    ((∀ k < 16, s.keys.getLsbD k = false) → exec (.ldKey x) s = .next s) ∧
    (∀ k < 16, s.keys.getLsbD k = true → (∀ j < 16, k < j → s.keys.getLsbD j = false) →
      ∃ t, exec (.ldKey x) s = .next t ∧ (t.readV x).toNat = k ∧ OnlyRegs (· = x) s t ∧ PcPlus2 s t)

/-- LD Vx, DT (44_keypad_timers.md R203), LD DT, Vx (R204), LD ST, Vx (R205, which emits nothing). -/
def Obligations.TimerAccess : Prop :=
  ∀ (x : Reg) (s : State),
    (∃ t, exec (.ldFromDt x) s = .next t ∧ t.readV x = s.dt ∧ OnlyRegs (· = x) s t ∧ PcPlus2 s t) ∧
    (∃ t, exec (.ldDt x) s = .next t ∧ t.dt = s.readV x ∧ OnlyPc s { t with dt := s.dt } ∧ PcPlus2 s t) ∧
    (∃ t, exec (.ldSt x) s = .next t ∧ t.st = s.readV x ∧ OnlyPc s { t with st := s.st } ∧ PcPlus2 s t)

/-- `Tick` (60_exceptions.md R240): both timers go down by 1 and stop at 0; one `Tone` iff `ST` was exactly 1; `DT`
and `ST` are all it writes. -/
def Obligations.TickCountsDown : Prop :=
  ∀ s : State, ∃ t, transition .tick s = .next t ∧
    t.dt.toNat = s.dt.toNat - 1 ∧ t.st.toNat = s.st.toNat - 1 ∧
    t.outputs = (if s.st = 1 then .tone :: s.outputs else s.outputs) ∧
    t = { s with dt := t.dt, st := t.st, outputs := t.outputs }

/-- The tone fires once, at the tick that takes `ST` to 0, over any number of ticks and whatever the engine's
condition; writing `ST` and `Reset` emit nothing (60_exceptions.md R241). -/
def Obligations.ToneFiresOncePerCountdown : Prop :=
  (∀ (s : State) (n : Nat) (rest : List Event),
    ∃ t, Host.Core.run Sys2Proof.core n { s with events := List.replicate n .tick ++ rest } = .next t ∧
      State.st t = BitVec.ofNat 8 (s.st.toNat - n) ∧ State.events t = rest ∧
      State.outputs t = if 1 ≤ s.st.toNat ∧ s.st.toNat ≤ n then .tone :: s.outputs else s.outputs) ∧
  (∀ (x : Reg) (s : State), ∃ t, exec (.ldSt x) s = .next t ∧ t.outputs = s.outputs) ∧
  (∀ s : State, ∃ t, transition .reset s = .next t ∧ t.outputs = s.outputs)

/-- The level outputs and the acknowledge (10_state.md R47): the read port shows the cell, `RedrawAck` clears `REDRAW`
and nothing else, a coincident set wins over the clear, the fault lines show the latch. -/
def Obligations.LevelOutputsAndAcknowledge : Prop :=
  (∀ (s : State) (k : BitVec 11), s.fbRead k = s.fb.getLsbD k.toNat) ∧
  (∀ s : State, s.redrawRequested = s.redraw ∧ transition .redrawAck s = .next { s with redraw := false }) ∧
  (∀ (k : Keys) (r : Byte) (s : State), s.fault = .none →
    (decodeWord (wordAtPc s) = .instr .cls ∨ ∃ x y n, decodeWord (wordAtPc s) = .instr (.drw x y n) ∧
      ∃ row < n.toNat, ∃ c < 8, spriteBit s row c) →
    s.events = Strobes.toEvents ⟨false, none, some (k, r), false, true⟩ →
    ∃ t, Host.Core.run Sys2Proof.core 2 s = .next t ∧ State.redraw t = true ∧ State.events t = []) ∧
  (∀ s : State, (s.faultLine = true ↔ s.fault ≠ .none) ∧
    (s.fault = .none → s.faultCause = 0) ∧
    (∀ a, s.fault = .stackOverflow a → s.faultCause = 1 ∧ s.faultPc = some a) ∧
    (∀ a, s.fault = .stackUnderflow a → s.faultCause = 2 ∧ s.faultPc = some a))

/-- Coincident strobes of the clocked view: `Reset` over everything; `Step` before `Tick`, so that an `FX07` in that
clock reads `DT` before the decrement (60_exceptions.md R228, 10_state.md R43). -/
def Obligations.ClockedStrobeOrder : Prop :=
  (∀ c : Strobes, c.rst = true → c.toEvents = [.reset]) ∧
  (∀ (k : Keys) (r : Byte) (x : Reg) (s : State),
    s.fault = .none → decodeWord (wordAtPc s) = .instr (.ldFromDt x) →
    s.events = Strobes.toEvents ⟨false, none, some (k, r), true, false⟩ →
    ∃ t, Host.Core.run Sys2Proof.core 2 s = .next t ∧
      State.readV t x = s.dt ∧ (State.dt t).toNat = s.dt.toNat - 1 ∧ State.events t = [])

/-- `Load(addr, byte)`: that byte and nothing else (10_state.md R44). -/
def Obligations.LoadWritesOneByte : Prop :=
  ∀ (b : Addr) (val : Byte) (s : State), s.mem.wf = true →
    ∃ t, transition (.load b val) s = .next t ∧ t.memRead b.toNat = val ∧
      (∀ a < 4096, a ≠ b.toNat → t.memRead a = s.memRead a) ∧ t = { s with mem := t.mem }

/-! ### Whole-machine rules -/

/-- No instruction writes a general register that 10_state.md R22's table does not give it (R21, R33: in particular
`VF` is written as a flag by six instructions and no other). -/
def Obligations.RegistersWrittenAreTheTables : Prop :=
  ∀ (i : Instr) (s t : State) (r : Reg), exec i s = .next t → ¬ mayWrite i r → t.readV r = s.readV r

/-- Only CLS and DRW write the framebuffer, and no other event but `Reset` does (10_state.md R35). -/
def Obligations.FramebufferWriters : Prop :=
  (∀ (i : Instr) (s t : State), exec i s = .next t → t.fb ≠ s.fb → i = .cls ∨ ∃ x y n, i = .drw x y n) ∧
  (∀ (e : Event) (s t : State), transition e s = .next t → t.fb ≠ s.fb →
    e = .reset ∨ ∃ k r, e = .step k r ∧
      (decodeWord (wordAtPc s) = .instr .cls ∨ ∃ x y n, decodeWord (wordAtPc s) = .instr (.drw x y n)))

/-- `REDRAW` is cleared by nothing but `RedrawAck` and `Reset` (10_state.md R36). -/
def Obligations.RedrawIsClearedOnlyByAckAndReset : Prop :=
  ∀ (e : Event) (s t : State), transition e s = .next t → s.redraw = true → t.redraw = false →
    e = .redrawAck ∨ e = .reset

/-- A stack entry is written only by CALL, and the stack pointer moves only by CALL (up 1) and RET (down 1)
(10_state.md R28, R29). -/
def Obligations.StackWriters : Prop :=
  ∀ (i : Instr) (s t : State), s.sp.toNat ≤ 16 → exec i s = .next t →
    (t.stack ≠ s.stack → ∃ nnn, i = .call nnn) ∧
    (t.sp ≠ s.sp → ((∃ nnn, i = .call nnn) ∧ t.sp.toNat = s.sp.toNat + 1) ∨
      (i = .ret ∧ t.sp.toNat + 1 = s.sp.toNat))

/-- RAM is written only by BCD (three bytes), LD [I], Vx, and the events `Load` and `Reset` (20_memory.md R61, R71,
R73): for every other instruction every byte reads as before. -/
def Obligations.MemoryWriters : Prop :=
  (∀ (i : Instr) (s t : State), exec i s = .next t →
    (∃ x, i = .bcd x) ∨ (∃ x, i = .store x) ∨ SameBytes s t) ∧
  (∀ (e : Event) (s t : State), transition e s = .next t →
    e = .reset ∨ (∃ a b, e = .load a b) ∨ (∃ k r, e = .step k r) ∨ SameBytes s t)

/-- `FAULT` is latched by nothing but CALL on a full stack and RET on an empty one, and no instruction emits an output
(60_exceptions.md R221, R222, R228). -/
def Obligations.OnlyCallAndRetFault : Prop :=
  ∀ (i : Instr) (s t : State), exec i s = .next t → t.outputs = s.outputs ∧
    (t.fault ≠ s.fault →
      ((∃ nnn, i = .call nnn) ∧ s.sp.toNat = 16 ∧ t.fault = .stackOverflow s.pc) ∨
      (i = .ret ∧ s.sp.toNat = 0 ∧ t.fault = .stackUnderflow s.pc))

/-- `keys` is read only by SKP, SKNP and LD Vx, K, and `rnd` only by RND (40_flow.md R120): every other instruction
does the same whatever the inputs are. -/
def Obligations.InputsReadOnlyByTheirInstructions : Prop :=
  ∀ (i : Instr) (s t : State) (k : Keys) (r : Byte), exec i s = .next t →
    (readsKeys i = false → exec i { s with keys := k } = .next { t with keys := k }) ∧
    (readsRnd i = false → exec i { s with rnd := r } = .next { t with rnd := r })

/-- No instruction reads `ST` (10_state.md R32), and none reads `REDRAW` (R36): changing either changes nothing else
in the result. -/
def Obligations.SoundTimerAndRedrawAreNotReadable : Prop :=
  ∀ (i : Instr) (s t : State) (b : Byte) (f : Bool), exec i s = .next t →
    ∃ t', exec i { s with st := b, redraw := f } = .next t' ∧ t' = { t with st := t'.st, redraw := t'.redraw }

/-- A jump to itself is the end of a run: from then on no `Step` changes any state of the block
(70_reset_and_hazards.md R270, 40_flow.md R123). Only the model's sampled-input fields move (log 4). -/
def Obligations.SelfJumpIsAFixedPoint : Prop :=
  ∀ (s : State) (k : Keys) (r : Byte), s.ended →
    ∃ t, transition (.step k r) s = .next t ∧ t = { s with keys := k, rnd := r } ∧ t.ended
end

