-- ==== Sys2Proof/Laws/State.lean ====
section
/-! SUPPORT. One lemma per field per update of State, true by rfl: no later proof unfolds a record update. Then what
the readers (registers, bytes, stack entries) see through an update that does not touch them. -/

namespace Sys2Proof.Machine

variable (s : State)

/-! ### writeV -/

@[simp] theorem writeV_v (x : Reg) (val : Byte) : (s.writeV x val).v = s.v.set x.toNat val x.isLt := rfl
@[simp] theorem writeV_i (x : Reg) (val : Byte) : (s.writeV x val).i = s.i := rfl
@[simp] theorem writeV_pc (x : Reg) (val : Byte) : (s.writeV x val).pc = s.pc := rfl
@[simp] theorem writeV_sp (x : Reg) (val : Byte) : (s.writeV x val).sp = s.sp := rfl
@[simp] theorem writeV_stack (x : Reg) (val : Byte) : (s.writeV x val).stack = s.stack := rfl
@[simp] theorem writeV_dt (x : Reg) (val : Byte) : (s.writeV x val).dt = s.dt := rfl
@[simp] theorem writeV_st (x : Reg) (val : Byte) : (s.writeV x val).st = s.st := rfl
@[simp] theorem writeV_mem (x : Reg) (val : Byte) : (s.writeV x val).mem = s.mem := rfl
@[simp] theorem writeV_fb (x : Reg) (val : Byte) : (s.writeV x val).fb = s.fb := rfl
@[simp] theorem writeV_redraw (x : Reg) (val : Byte) : (s.writeV x val).redraw = s.redraw := rfl
@[simp] theorem writeV_fault (x : Reg) (val : Byte) : (s.writeV x val).fault = s.fault := rfl
@[simp] theorem writeV_keys (x : Reg) (val : Byte) : (s.writeV x val).keys = s.keys := rfl
@[simp] theorem writeV_rnd (x : Reg) (val : Byte) : (s.writeV x val).rnd = s.rnd := rfl
@[simp] theorem writeV_outputs (x : Reg) (val : Byte) : (s.writeV x val).outputs = s.outputs := rfl
@[simp] theorem writeV_events (x : Reg) (val : Byte) : (s.writeV x val).events = s.events := rfl
@[simp] theorem writeV_sampleNo (x : Reg) (val : Byte) : (s.writeV x val).sampleNo = s.sampleNo := rfl
@[simp] theorem writeV_memRead (x : Reg) (val : Byte) (addr' : Nat) : (s.writeV x val).memRead addr' = s.memRead addr' := rfl
@[simp] theorem writeV_effAddr (x : Reg) (val : Byte) (k : Nat) : (s.writeV x val).effAddr k = s.effAddr k := rfl
@[simp] theorem writeV_key (x : Reg) (val : Byte) (k : Nibble) : (s.writeV x val).key k = s.key k := rfl
@[simp] theorem writeV_stackEntry (x : Reg) (val : Byte) (k : BitVec 5) : (s.writeV x val).stackEntry k = s.stackEntry k := rfl

/-! ### memWrite -/

@[simp] theorem memWrite_v (addr : Nat) (val : Byte) : (s.memWrite addr val).v = s.v := rfl
@[simp] theorem memWrite_i (addr : Nat) (val : Byte) : (s.memWrite addr val).i = s.i := rfl
@[simp] theorem memWrite_pc (addr : Nat) (val : Byte) : (s.memWrite addr val).pc = s.pc := rfl
@[simp] theorem memWrite_sp (addr : Nat) (val : Byte) : (s.memWrite addr val).sp = s.sp := rfl
@[simp] theorem memWrite_stack (addr : Nat) (val : Byte) : (s.memWrite addr val).stack = s.stack := rfl
@[simp] theorem memWrite_dt (addr : Nat) (val : Byte) : (s.memWrite addr val).dt = s.dt := rfl
@[simp] theorem memWrite_st (addr : Nat) (val : Byte) : (s.memWrite addr val).st = s.st := rfl
@[simp] theorem memWrite_mem (addr : Nat) (val : Byte) : (s.memWrite addr val).mem = s.mem.write (addr % Config.ramSize) val := rfl
@[simp] theorem memWrite_fb (addr : Nat) (val : Byte) : (s.memWrite addr val).fb = s.fb := rfl
@[simp] theorem memWrite_redraw (addr : Nat) (val : Byte) : (s.memWrite addr val).redraw = s.redraw := rfl
@[simp] theorem memWrite_fault (addr : Nat) (val : Byte) : (s.memWrite addr val).fault = s.fault := rfl
@[simp] theorem memWrite_keys (addr : Nat) (val : Byte) : (s.memWrite addr val).keys = s.keys := rfl
@[simp] theorem memWrite_rnd (addr : Nat) (val : Byte) : (s.memWrite addr val).rnd = s.rnd := rfl
@[simp] theorem memWrite_outputs (addr : Nat) (val : Byte) : (s.memWrite addr val).outputs = s.outputs := rfl
@[simp] theorem memWrite_events (addr : Nat) (val : Byte) : (s.memWrite addr val).events = s.events := rfl
@[simp] theorem memWrite_sampleNo (addr : Nat) (val : Byte) : (s.memWrite addr val).sampleNo = s.sampleNo := rfl
@[simp] theorem memWrite_readV (addr : Nat) (val : Byte) (r : Reg) : (s.memWrite addr val).readV r = s.readV r := rfl
@[simp] theorem memWrite_effAddr (addr : Nat) (val : Byte) (k : Nat) : (s.memWrite addr val).effAddr k = s.effAddr k := rfl
@[simp] theorem memWrite_key (addr : Nat) (val : Byte) (k : Nibble) : (s.memWrite addr val).key k = s.key k := rfl
@[simp] theorem memWrite_stackEntry (addr : Nat) (val : Byte) (k : BitVec 5) : (s.memWrite addr val).stackEntry k = s.stackEntry k := rfl

/-! ### setI -/

@[simp] theorem setI_v (a : Addr) : (s.setI a).v = s.v := rfl
@[simp] theorem setI_i (a : Addr) : (s.setI a).i = a := rfl
@[simp] theorem setI_pc (a : Addr) : (s.setI a).pc = s.pc := rfl
@[simp] theorem setI_sp (a : Addr) : (s.setI a).sp = s.sp := rfl
@[simp] theorem setI_stack (a : Addr) : (s.setI a).stack = s.stack := rfl
@[simp] theorem setI_dt (a : Addr) : (s.setI a).dt = s.dt := rfl
@[simp] theorem setI_st (a : Addr) : (s.setI a).st = s.st := rfl
@[simp] theorem setI_mem (a : Addr) : (s.setI a).mem = s.mem := rfl
@[simp] theorem setI_fb (a : Addr) : (s.setI a).fb = s.fb := rfl
@[simp] theorem setI_redraw (a : Addr) : (s.setI a).redraw = s.redraw := rfl
@[simp] theorem setI_fault (a : Addr) : (s.setI a).fault = s.fault := rfl
@[simp] theorem setI_keys (a : Addr) : (s.setI a).keys = s.keys := rfl
@[simp] theorem setI_rnd (a : Addr) : (s.setI a).rnd = s.rnd := rfl
@[simp] theorem setI_outputs (a : Addr) : (s.setI a).outputs = s.outputs := rfl
@[simp] theorem setI_events (a : Addr) : (s.setI a).events = s.events := rfl
@[simp] theorem setI_sampleNo (a : Addr) : (s.setI a).sampleNo = s.sampleNo := rfl
@[simp] theorem setI_readV (a : Addr) (r : Reg) : (s.setI a).readV r = s.readV r := rfl
@[simp] theorem setI_memRead (a : Addr) (addr' : Nat) : (s.setI a).memRead addr' = s.memRead addr' := rfl
@[simp] theorem setI_key (a : Addr) (k : Nibble) : (s.setI a).key k = s.key k := rfl
@[simp] theorem setI_stackEntry (a : Addr) (k : BitVec 5) : (s.setI a).stackEntry k = s.stackEntry k := rfl

/-! ### setPc -/

@[simp] theorem setPc_v (a : Addr) : (s.setPc a).v = s.v := rfl
@[simp] theorem setPc_i (a : Addr) : (s.setPc a).i = s.i := rfl
@[simp] theorem setPc_pc (a : Addr) : (s.setPc a).pc = a := rfl
@[simp] theorem setPc_sp (a : Addr) : (s.setPc a).sp = s.sp := rfl
@[simp] theorem setPc_stack (a : Addr) : (s.setPc a).stack = s.stack := rfl
@[simp] theorem setPc_dt (a : Addr) : (s.setPc a).dt = s.dt := rfl
@[simp] theorem setPc_st (a : Addr) : (s.setPc a).st = s.st := rfl
@[simp] theorem setPc_mem (a : Addr) : (s.setPc a).mem = s.mem := rfl
@[simp] theorem setPc_fb (a : Addr) : (s.setPc a).fb = s.fb := rfl
@[simp] theorem setPc_redraw (a : Addr) : (s.setPc a).redraw = s.redraw := rfl
@[simp] theorem setPc_fault (a : Addr) : (s.setPc a).fault = s.fault := rfl
@[simp] theorem setPc_keys (a : Addr) : (s.setPc a).keys = s.keys := rfl
@[simp] theorem setPc_rnd (a : Addr) : (s.setPc a).rnd = s.rnd := rfl
@[simp] theorem setPc_outputs (a : Addr) : (s.setPc a).outputs = s.outputs := rfl
@[simp] theorem setPc_events (a : Addr) : (s.setPc a).events = s.events := rfl
@[simp] theorem setPc_sampleNo (a : Addr) : (s.setPc a).sampleNo = s.sampleNo := rfl
@[simp] theorem setPc_readV (a : Addr) (r : Reg) : (s.setPc a).readV r = s.readV r := rfl
@[simp] theorem setPc_memRead (a : Addr) (addr' : Nat) : (s.setPc a).memRead addr' = s.memRead addr' := rfl
@[simp] theorem setPc_effAddr (a : Addr) (k : Nat) : (s.setPc a).effAddr k = s.effAddr k := rfl
@[simp] theorem setPc_key (a : Addr) (k : Nibble) : (s.setPc a).key k = s.key k := rfl
@[simp] theorem setPc_stackEntry (a : Addr) (k : BitVec 5) : (s.setPc a).stackEntry k = s.stackEntry k := rfl

/-! ### advance -/

@[simp] theorem advance_v : (s.advance).v = s.v := rfl
@[simp] theorem advance_i : (s.advance).i = s.i := rfl
@[simp] theorem advance_pc : (s.advance).pc = s.pc + 2#12 := rfl
@[simp] theorem advance_sp : (s.advance).sp = s.sp := rfl
@[simp] theorem advance_stack : (s.advance).stack = s.stack := rfl
@[simp] theorem advance_dt : (s.advance).dt = s.dt := rfl
@[simp] theorem advance_st : (s.advance).st = s.st := rfl
@[simp] theorem advance_mem : (s.advance).mem = s.mem := rfl
@[simp] theorem advance_fb : (s.advance).fb = s.fb := rfl
@[simp] theorem advance_redraw : (s.advance).redraw = s.redraw := rfl
@[simp] theorem advance_fault : (s.advance).fault = s.fault := rfl
@[simp] theorem advance_keys : (s.advance).keys = s.keys := rfl
@[simp] theorem advance_rnd : (s.advance).rnd = s.rnd := rfl
@[simp] theorem advance_outputs : (s.advance).outputs = s.outputs := rfl
@[simp] theorem advance_events : (s.advance).events = s.events := rfl
@[simp] theorem advance_sampleNo : (s.advance).sampleNo = s.sampleNo := rfl
@[simp] theorem advance_readV (r : Reg) : (s.advance).readV r = s.readV r := rfl
@[simp] theorem advance_memRead (addr' : Nat) : (s.advance).memRead addr' = s.memRead addr' := rfl
@[simp] theorem advance_effAddr (k : Nat) : (s.advance).effAddr k = s.effAddr k := rfl
@[simp] theorem advance_key (k : Nibble) : (s.advance).key k = s.key k := rfl
@[simp] theorem advance_stackEntry (k : BitVec 5) : (s.advance).stackEntry k = s.stackEntry k := rfl

/-! ### setDt -/

@[simp] theorem setDt_v (val : Byte) : (s.setDt val).v = s.v := rfl
@[simp] theorem setDt_i (val : Byte) : (s.setDt val).i = s.i := rfl
@[simp] theorem setDt_pc (val : Byte) : (s.setDt val).pc = s.pc := rfl
@[simp] theorem setDt_sp (val : Byte) : (s.setDt val).sp = s.sp := rfl
@[simp] theorem setDt_stack (val : Byte) : (s.setDt val).stack = s.stack := rfl
@[simp] theorem setDt_dt (val : Byte) : (s.setDt val).dt = val := rfl
@[simp] theorem setDt_st (val : Byte) : (s.setDt val).st = s.st := rfl
@[simp] theorem setDt_mem (val : Byte) : (s.setDt val).mem = s.mem := rfl
@[simp] theorem setDt_fb (val : Byte) : (s.setDt val).fb = s.fb := rfl
@[simp] theorem setDt_redraw (val : Byte) : (s.setDt val).redraw = s.redraw := rfl
@[simp] theorem setDt_fault (val : Byte) : (s.setDt val).fault = s.fault := rfl
@[simp] theorem setDt_keys (val : Byte) : (s.setDt val).keys = s.keys := rfl
@[simp] theorem setDt_rnd (val : Byte) : (s.setDt val).rnd = s.rnd := rfl
@[simp] theorem setDt_outputs (val : Byte) : (s.setDt val).outputs = s.outputs := rfl
@[simp] theorem setDt_events (val : Byte) : (s.setDt val).events = s.events := rfl
@[simp] theorem setDt_sampleNo (val : Byte) : (s.setDt val).sampleNo = s.sampleNo := rfl
@[simp] theorem setDt_readV (val : Byte) (r : Reg) : (s.setDt val).readV r = s.readV r := rfl
@[simp] theorem setDt_memRead (val : Byte) (addr' : Nat) : (s.setDt val).memRead addr' = s.memRead addr' := rfl
@[simp] theorem setDt_effAddr (val : Byte) (k : Nat) : (s.setDt val).effAddr k = s.effAddr k := rfl
@[simp] theorem setDt_key (val : Byte) (k : Nibble) : (s.setDt val).key k = s.key k := rfl
@[simp] theorem setDt_stackEntry (val : Byte) (k : BitVec 5) : (s.setDt val).stackEntry k = s.stackEntry k := rfl

/-! ### setSt -/

@[simp] theorem setSt_v (val : Byte) : (s.setSt val).v = s.v := rfl
@[simp] theorem setSt_i (val : Byte) : (s.setSt val).i = s.i := rfl
@[simp] theorem setSt_pc (val : Byte) : (s.setSt val).pc = s.pc := rfl
@[simp] theorem setSt_sp (val : Byte) : (s.setSt val).sp = s.sp := rfl
@[simp] theorem setSt_stack (val : Byte) : (s.setSt val).stack = s.stack := rfl
@[simp] theorem setSt_dt (val : Byte) : (s.setSt val).dt = s.dt := rfl
@[simp] theorem setSt_st (val : Byte) : (s.setSt val).st = val := rfl
@[simp] theorem setSt_mem (val : Byte) : (s.setSt val).mem = s.mem := rfl
@[simp] theorem setSt_fb (val : Byte) : (s.setSt val).fb = s.fb := rfl
@[simp] theorem setSt_redraw (val : Byte) : (s.setSt val).redraw = s.redraw := rfl
@[simp] theorem setSt_fault (val : Byte) : (s.setSt val).fault = s.fault := rfl
@[simp] theorem setSt_keys (val : Byte) : (s.setSt val).keys = s.keys := rfl
@[simp] theorem setSt_rnd (val : Byte) : (s.setSt val).rnd = s.rnd := rfl
@[simp] theorem setSt_outputs (val : Byte) : (s.setSt val).outputs = s.outputs := rfl
@[simp] theorem setSt_events (val : Byte) : (s.setSt val).events = s.events := rfl
@[simp] theorem setSt_sampleNo (val : Byte) : (s.setSt val).sampleNo = s.sampleNo := rfl
@[simp] theorem setSt_readV (val : Byte) (r : Reg) : (s.setSt val).readV r = s.readV r := rfl
@[simp] theorem setSt_memRead (val : Byte) (addr' : Nat) : (s.setSt val).memRead addr' = s.memRead addr' := rfl
@[simp] theorem setSt_effAddr (val : Byte) (k : Nat) : (s.setSt val).effAddr k = s.effAddr k := rfl
@[simp] theorem setSt_key (val : Byte) (k : Nibble) : (s.setSt val).key k = s.key k := rfl
@[simp] theorem setSt_stackEntry (val : Byte) (k : BitVec 5) : (s.setSt val).stackEntry k = s.stackEntry k := rfl

/-! ### setFb -/

@[simp] theorem setFb_v (fb : Framebuffer) : (s.setFb fb).v = s.v := rfl
@[simp] theorem setFb_i (fb : Framebuffer) : (s.setFb fb).i = s.i := rfl
@[simp] theorem setFb_pc (fb : Framebuffer) : (s.setFb fb).pc = s.pc := rfl
@[simp] theorem setFb_sp (fb : Framebuffer) : (s.setFb fb).sp = s.sp := rfl
@[simp] theorem setFb_stack (fb : Framebuffer) : (s.setFb fb).stack = s.stack := rfl
@[simp] theorem setFb_dt (fb : Framebuffer) : (s.setFb fb).dt = s.dt := rfl
@[simp] theorem setFb_st (fb : Framebuffer) : (s.setFb fb).st = s.st := rfl
@[simp] theorem setFb_mem (fb : Framebuffer) : (s.setFb fb).mem = s.mem := rfl
@[simp] theorem setFb_fb (fb : Framebuffer) : (s.setFb fb).fb = fb := rfl
@[simp] theorem setFb_redraw (fb : Framebuffer) : (s.setFb fb).redraw = s.redraw := rfl
@[simp] theorem setFb_fault (fb : Framebuffer) : (s.setFb fb).fault = s.fault := rfl
@[simp] theorem setFb_keys (fb : Framebuffer) : (s.setFb fb).keys = s.keys := rfl
@[simp] theorem setFb_rnd (fb : Framebuffer) : (s.setFb fb).rnd = s.rnd := rfl
@[simp] theorem setFb_outputs (fb : Framebuffer) : (s.setFb fb).outputs = s.outputs := rfl
@[simp] theorem setFb_events (fb : Framebuffer) : (s.setFb fb).events = s.events := rfl
@[simp] theorem setFb_sampleNo (fb : Framebuffer) : (s.setFb fb).sampleNo = s.sampleNo := rfl
@[simp] theorem setFb_readV (fb : Framebuffer) (r : Reg) : (s.setFb fb).readV r = s.readV r := rfl
@[simp] theorem setFb_memRead (fb : Framebuffer) (addr' : Nat) : (s.setFb fb).memRead addr' = s.memRead addr' := rfl
@[simp] theorem setFb_effAddr (fb : Framebuffer) (k : Nat) : (s.setFb fb).effAddr k = s.effAddr k := rfl
@[simp] theorem setFb_key (fb : Framebuffer) (k : Nibble) : (s.setFb fb).key k = s.key k := rfl
@[simp] theorem setFb_stackEntry (fb : Framebuffer) (k : BitVec 5) : (s.setFb fb).stackEntry k = s.stackEntry k := rfl

/-! ### setRedraw -/

@[simp] theorem setRedraw_v (val : Bool) : (s.setRedraw val).v = s.v := rfl
@[simp] theorem setRedraw_i (val : Bool) : (s.setRedraw val).i = s.i := rfl
@[simp] theorem setRedraw_pc (val : Bool) : (s.setRedraw val).pc = s.pc := rfl
@[simp] theorem setRedraw_sp (val : Bool) : (s.setRedraw val).sp = s.sp := rfl
@[simp] theorem setRedraw_stack (val : Bool) : (s.setRedraw val).stack = s.stack := rfl
@[simp] theorem setRedraw_dt (val : Bool) : (s.setRedraw val).dt = s.dt := rfl
@[simp] theorem setRedraw_st (val : Bool) : (s.setRedraw val).st = s.st := rfl
@[simp] theorem setRedraw_mem (val : Bool) : (s.setRedraw val).mem = s.mem := rfl
@[simp] theorem setRedraw_fb (val : Bool) : (s.setRedraw val).fb = s.fb := rfl
@[simp] theorem setRedraw_redraw (val : Bool) : (s.setRedraw val).redraw = val := rfl
@[simp] theorem setRedraw_fault (val : Bool) : (s.setRedraw val).fault = s.fault := rfl
@[simp] theorem setRedraw_keys (val : Bool) : (s.setRedraw val).keys = s.keys := rfl
@[simp] theorem setRedraw_rnd (val : Bool) : (s.setRedraw val).rnd = s.rnd := rfl
@[simp] theorem setRedraw_outputs (val : Bool) : (s.setRedraw val).outputs = s.outputs := rfl
@[simp] theorem setRedraw_events (val : Bool) : (s.setRedraw val).events = s.events := rfl
@[simp] theorem setRedraw_sampleNo (val : Bool) : (s.setRedraw val).sampleNo = s.sampleNo := rfl
@[simp] theorem setRedraw_readV (val : Bool) (r : Reg) : (s.setRedraw val).readV r = s.readV r := rfl
@[simp] theorem setRedraw_memRead (val : Bool) (addr' : Nat) : (s.setRedraw val).memRead addr' = s.memRead addr' := rfl
@[simp] theorem setRedraw_effAddr (val : Bool) (k : Nat) : (s.setRedraw val).effAddr k = s.effAddr k := rfl
@[simp] theorem setRedraw_key (val : Bool) (k : Nibble) : (s.setRedraw val).key k = s.key k := rfl
@[simp] theorem setRedraw_stackEntry (val : Bool) (k : BitVec 5) : (s.setRedraw val).stackEntry k = s.stackEntry k := rfl

/-! ### push -/

@[simp] theorem push_v (a : Addr) : (s.push a).v = s.v := rfl
@[simp] theorem push_i (a : Addr) : (s.push a).i = s.i := rfl
@[simp] theorem push_pc (a : Addr) : (s.push a).pc = s.pc := rfl
@[simp] theorem push_sp (a : Addr) : (s.push a).sp = s.sp + 1#5 := rfl
@[simp] theorem push_stack (a : Addr) : (s.push a).stack = s.stack.set (stackIndex s.sp).toNat a (stackIndex s.sp).isLt := rfl
@[simp] theorem push_dt (a : Addr) : (s.push a).dt = s.dt := rfl
@[simp] theorem push_st (a : Addr) : (s.push a).st = s.st := rfl
@[simp] theorem push_mem (a : Addr) : (s.push a).mem = s.mem := rfl
@[simp] theorem push_fb (a : Addr) : (s.push a).fb = s.fb := rfl
@[simp] theorem push_redraw (a : Addr) : (s.push a).redraw = s.redraw := rfl
@[simp] theorem push_fault (a : Addr) : (s.push a).fault = s.fault := rfl
@[simp] theorem push_keys (a : Addr) : (s.push a).keys = s.keys := rfl
@[simp] theorem push_rnd (a : Addr) : (s.push a).rnd = s.rnd := rfl
@[simp] theorem push_outputs (a : Addr) : (s.push a).outputs = s.outputs := rfl
@[simp] theorem push_events (a : Addr) : (s.push a).events = s.events := rfl
@[simp] theorem push_sampleNo (a : Addr) : (s.push a).sampleNo = s.sampleNo := rfl
@[simp] theorem push_readV (a : Addr) (r : Reg) : (s.push a).readV r = s.readV r := rfl
@[simp] theorem push_memRead (a : Addr) (addr' : Nat) : (s.push a).memRead addr' = s.memRead addr' := rfl
@[simp] theorem push_effAddr (a : Addr) (k : Nat) : (s.push a).effAddr k = s.effAddr k := rfl
@[simp] theorem push_key (a : Addr) (k : Nibble) : (s.push a).key k = s.key k := rfl

/-! ### pop -/

@[simp] theorem pop_v : (s.pop).v = s.v := rfl
@[simp] theorem pop_i : (s.pop).i = s.i := rfl
@[simp] theorem pop_pc : (s.pop).pc = s.pc := rfl
@[simp] theorem pop_sp : (s.pop).sp = s.sp - 1#5 := rfl
@[simp] theorem pop_stack : (s.pop).stack = s.stack := rfl
@[simp] theorem pop_dt : (s.pop).dt = s.dt := rfl
@[simp] theorem pop_st : (s.pop).st = s.st := rfl
@[simp] theorem pop_mem : (s.pop).mem = s.mem := rfl
@[simp] theorem pop_fb : (s.pop).fb = s.fb := rfl
@[simp] theorem pop_redraw : (s.pop).redraw = s.redraw := rfl
@[simp] theorem pop_fault : (s.pop).fault = s.fault := rfl
@[simp] theorem pop_keys : (s.pop).keys = s.keys := rfl
@[simp] theorem pop_rnd : (s.pop).rnd = s.rnd := rfl
@[simp] theorem pop_outputs : (s.pop).outputs = s.outputs := rfl
@[simp] theorem pop_events : (s.pop).events = s.events := rfl
@[simp] theorem pop_sampleNo : (s.pop).sampleNo = s.sampleNo := rfl
@[simp] theorem pop_readV (r : Reg) : (s.pop).readV r = s.readV r := rfl
@[simp] theorem pop_memRead (addr' : Nat) : (s.pop).memRead addr' = s.memRead addr' := rfl
@[simp] theorem pop_effAddr (k : Nat) : (s.pop).effAddr k = s.effAddr k := rfl
@[simp] theorem pop_key (k : Nibble) : (s.pop).key k = s.key k := rfl
@[simp] theorem pop_stackEntry (k : BitVec 5) : (s.pop).stackEntry k = s.stackEntry k := rfl

/-! ### emit -/

@[simp] theorem emit_v (o : Output) : (s.emit o).v = s.v := rfl
@[simp] theorem emit_i (o : Output) : (s.emit o).i = s.i := rfl
@[simp] theorem emit_pc (o : Output) : (s.emit o).pc = s.pc := rfl
@[simp] theorem emit_sp (o : Output) : (s.emit o).sp = s.sp := rfl
@[simp] theorem emit_stack (o : Output) : (s.emit o).stack = s.stack := rfl
@[simp] theorem emit_dt (o : Output) : (s.emit o).dt = s.dt := rfl
@[simp] theorem emit_st (o : Output) : (s.emit o).st = s.st := rfl
@[simp] theorem emit_mem (o : Output) : (s.emit o).mem = s.mem := rfl
@[simp] theorem emit_fb (o : Output) : (s.emit o).fb = s.fb := rfl
@[simp] theorem emit_redraw (o : Output) : (s.emit o).redraw = s.redraw := rfl
@[simp] theorem emit_fault (o : Output) : (s.emit o).fault = s.fault := rfl
@[simp] theorem emit_keys (o : Output) : (s.emit o).keys = s.keys := rfl
@[simp] theorem emit_rnd (o : Output) : (s.emit o).rnd = s.rnd := rfl
@[simp] theorem emit_outputs (o : Output) : (s.emit o).outputs = o :: s.outputs := rfl
@[simp] theorem emit_events (o : Output) : (s.emit o).events = s.events := rfl
@[simp] theorem emit_sampleNo (o : Output) : (s.emit o).sampleNo = s.sampleNo := rfl
@[simp] theorem emit_readV (o : Output) (r : Reg) : (s.emit o).readV r = s.readV r := rfl
@[simp] theorem emit_memRead (o : Output) (addr' : Nat) : (s.emit o).memRead addr' = s.memRead addr' := rfl
@[simp] theorem emit_effAddr (o : Output) (k : Nat) : (s.emit o).effAddr k = s.effAddr k := rfl
@[simp] theorem emit_key (o : Output) (k : Nibble) : (s.emit o).key k = s.key k := rfl
@[simp] theorem emit_stackEntry (o : Output) (k : BitVec 5) : (s.emit o).stackEntry k = s.stackEntry k := rfl

/-! ### sample -/

@[simp] theorem sample_v (keys : Keys) (rnd : Byte) : (s.sample keys rnd).v = s.v := rfl
@[simp] theorem sample_i (keys : Keys) (rnd : Byte) : (s.sample keys rnd).i = s.i := rfl
@[simp] theorem sample_pc (keys : Keys) (rnd : Byte) : (s.sample keys rnd).pc = s.pc := rfl
@[simp] theorem sample_sp (keys : Keys) (rnd : Byte) : (s.sample keys rnd).sp = s.sp := rfl
@[simp] theorem sample_stack (keys : Keys) (rnd : Byte) : (s.sample keys rnd).stack = s.stack := rfl
@[simp] theorem sample_dt (keys : Keys) (rnd : Byte) : (s.sample keys rnd).dt = s.dt := rfl
@[simp] theorem sample_st (keys : Keys) (rnd : Byte) : (s.sample keys rnd).st = s.st := rfl
@[simp] theorem sample_mem (keys : Keys) (rnd : Byte) : (s.sample keys rnd).mem = s.mem := rfl
@[simp] theorem sample_fb (keys : Keys) (rnd : Byte) : (s.sample keys rnd).fb = s.fb := rfl
@[simp] theorem sample_redraw (keys : Keys) (rnd : Byte) : (s.sample keys rnd).redraw = s.redraw := rfl
@[simp] theorem sample_fault (keys : Keys) (rnd : Byte) : (s.sample keys rnd).fault = s.fault := rfl
@[simp] theorem sample_keys (keys : Keys) (rnd : Byte) : (s.sample keys rnd).keys = keys := rfl
@[simp] theorem sample_rnd (keys : Keys) (rnd : Byte) : (s.sample keys rnd).rnd = rnd := rfl
@[simp] theorem sample_outputs (keys : Keys) (rnd : Byte) : (s.sample keys rnd).outputs = s.outputs := rfl
@[simp] theorem sample_events (keys : Keys) (rnd : Byte) : (s.sample keys rnd).events = s.events := rfl
@[simp] theorem sample_sampleNo (keys : Keys) (rnd : Byte) : (s.sample keys rnd).sampleNo = s.sampleNo := rfl
@[simp] theorem sample_readV (keys : Keys) (rnd : Byte) (r : Reg) : (s.sample keys rnd).readV r = s.readV r := rfl
@[simp] theorem sample_memRead (keys : Keys) (rnd : Byte) (addr' : Nat) : (s.sample keys rnd).memRead addr' = s.memRead addr' := rfl
@[simp] theorem sample_effAddr (keys : Keys) (rnd : Byte) (k : Nat) : (s.sample keys rnd).effAddr k = s.effAddr k := rfl
@[simp] theorem sample_stackEntry (keys : Keys) (rnd : Byte) (k : BitVec 5) : (s.sample keys rnd).stackEntry k = s.stackEntry k := rfl

/-! ### raise -/

@[simp] theorem raise_v (e : Addr → FaultLatch) : (s.raise e).v = s.v := rfl
@[simp] theorem raise_i (e : Addr → FaultLatch) : (s.raise e).i = s.i := rfl
@[simp] theorem raise_pc (e : Addr → FaultLatch) : (s.raise e).pc = s.pc := rfl
@[simp] theorem raise_sp (e : Addr → FaultLatch) : (s.raise e).sp = s.sp := rfl
@[simp] theorem raise_stack (e : Addr → FaultLatch) : (s.raise e).stack = s.stack := rfl
@[simp] theorem raise_dt (e : Addr → FaultLatch) : (s.raise e).dt = s.dt := rfl
@[simp] theorem raise_st (e : Addr → FaultLatch) : (s.raise e).st = s.st := rfl
@[simp] theorem raise_mem (e : Addr → FaultLatch) : (s.raise e).mem = s.mem := rfl
@[simp] theorem raise_fb (e : Addr → FaultLatch) : (s.raise e).fb = s.fb := rfl
@[simp] theorem raise_redraw (e : Addr → FaultLatch) : (s.raise e).redraw = s.redraw := rfl
@[simp] theorem raise_fault (e : Addr → FaultLatch) : (s.raise e).fault = e s.pc := rfl
@[simp] theorem raise_keys (e : Addr → FaultLatch) : (s.raise e).keys = s.keys := rfl
@[simp] theorem raise_rnd (e : Addr → FaultLatch) : (s.raise e).rnd = s.rnd := rfl
@[simp] theorem raise_outputs (e : Addr → FaultLatch) : (s.raise e).outputs = s.outputs := rfl
@[simp] theorem raise_events (e : Addr → FaultLatch) : (s.raise e).events = s.events := rfl
@[simp] theorem raise_sampleNo (e : Addr → FaultLatch) : (s.raise e).sampleNo = s.sampleNo := rfl
@[simp] theorem raise_readV (e : Addr → FaultLatch) (r : Reg) : (s.raise e).readV r = s.readV r := rfl
@[simp] theorem raise_memRead (e : Addr → FaultLatch) (addr' : Nat) : (s.raise e).memRead addr' = s.memRead addr' := rfl
@[simp] theorem raise_effAddr (e : Addr → FaultLatch) (k : Nat) : (s.raise e).effAddr k = s.effAddr k := rfl
@[simp] theorem raise_key (e : Addr → FaultLatch) (k : Nibble) : (s.raise e).key k = s.key k := rfl
@[simp] theorem raise_stackEntry (e : Addr → FaultLatch) (k : BitVec 5) : (s.raise e).stackEntry k = s.stackEntry k := rfl

/-! ### skipIf -/

@[simp] theorem skipIf_v (c : Bool) : (s.skipIf c).v = s.v := by cases c <;> rfl
@[simp] theorem skipIf_i (c : Bool) : (s.skipIf c).i = s.i := by cases c <;> rfl
@[simp] theorem skipIf_pc (c : Bool) : (s.skipIf c).pc = if c then s.pc + 4#12 else s.pc + 2#12 := by
  cases c <;> rfl
@[simp] theorem skipIf_sp (c : Bool) : (s.skipIf c).sp = s.sp := by cases c <;> rfl
@[simp] theorem skipIf_stack (c : Bool) : (s.skipIf c).stack = s.stack := by cases c <;> rfl
@[simp] theorem skipIf_dt (c : Bool) : (s.skipIf c).dt = s.dt := by cases c <;> rfl
@[simp] theorem skipIf_st (c : Bool) : (s.skipIf c).st = s.st := by cases c <;> rfl
@[simp] theorem skipIf_mem (c : Bool) : (s.skipIf c).mem = s.mem := by cases c <;> rfl
@[simp] theorem skipIf_fb (c : Bool) : (s.skipIf c).fb = s.fb := by cases c <;> rfl
@[simp] theorem skipIf_redraw (c : Bool) : (s.skipIf c).redraw = s.redraw := by cases c <;> rfl
@[simp] theorem skipIf_fault (c : Bool) : (s.skipIf c).fault = s.fault := by cases c <;> rfl
@[simp] theorem skipIf_keys (c : Bool) : (s.skipIf c).keys = s.keys := by cases c <;> rfl
@[simp] theorem skipIf_rnd (c : Bool) : (s.skipIf c).rnd = s.rnd := by cases c <;> rfl
@[simp] theorem skipIf_outputs (c : Bool) : (s.skipIf c).outputs = s.outputs := by cases c <;> rfl
@[simp] theorem skipIf_events (c : Bool) : (s.skipIf c).events = s.events := by cases c <;> rfl
@[simp] theorem skipIf_sampleNo (c : Bool) : (s.skipIf c).sampleNo = s.sampleNo := by cases c <;> rfl
@[simp] theorem skipIf_readV (c : Bool) (r : Reg) : (s.skipIf c).readV r = s.readV r := by cases c <;> rfl
@[simp] theorem skipIf_memRead (c : Bool) (a : Nat) : (s.skipIf c).memRead a = s.memRead a := by cases c <;> rfl

end Sys2Proof.Machine
end

