-- ==== Sys2Proof/Laws/Memory.lean ====
section
/-! SUPPORT. The laws of RAM: a read after a write to the same place gives the value written, a write leaves every other
byte alone, and every write keeps the canonical form (Memory.wf). -/

namespace Sys2Proof.Machine

theorem Memory.wfFrom_mono {lo lo' : Nat} (h : lo' ≤ lo) {m : Memory} (hm : Memory.wfFrom lo m = true) :
    Memory.wfFrom lo' m = true := by
  cases m with
  | nil => rfl
  | cons e m =>
    simp only [Memory.wfFrom, Bool.and_eq_true, decide_eq_true_eq] at hm ⊢
    exact ⟨⟨⟨by omega, hm.1.1.2⟩, hm.1.2⟩, hm.2⟩

/-- Below every listed address, RAM reads as after reset. -/
theorem Memory.read_below {lo : Nat} {m : Memory} (hm : Memory.wfFrom lo m = true) {a : Nat} (h : a < lo) :
    m.read a = Config.resetByte a := by
  induction m generalizing lo with
  | nil => rfl
  | cons e m ih =>
    simp only [Memory.wfFrom, Bool.and_eq_true, decide_eq_true_eq] at hm
    have hne : a ≠ e.1 := by omega
    simp only [Memory.read, if_neg hne]
    exact ih hm.2 (by omega)

theorem Memory.read_put {m : Memory} {b : Nat} {val : Byte} (hm : Memory.wfFrom (b + 1) m = true) (a : Nat) :
    (Memory.put b val m).read a = if a = b then val else m.read a := by
  unfold Memory.put
  split
  · split
    · subst_vars; exact Memory.read_below hm (by omega)
    · rfl
  · rfl

theorem Memory.wfFrom_put {m : Memory} {lo b : Nat} {val : Byte} (hm : Memory.wfFrom (b + 1) m = true) (hlo : lo ≤ b)
    (hb : b < Config.ramSize) : Memory.wfFrom lo (Memory.put b val m) = true := by
  unfold Memory.put
  split
  · exact Memory.wfFrom_mono (by omega) hm
  · simp [Memory.wfFrom, *]

/-- A read after a write: the value at the place written, the old byte everywhere else. -/
theorem Memory.read_write {lo : Nat} {m : Memory} (hm : Memory.wfFrom lo m = true) (b : Nat) (val : Byte) (a : Nat) :
    (m.write b val).read a = if a = b then val else m.read a := by
  induction m generalizing lo with
  | nil => exact Memory.read_put (m := []) rfl a
  | cons e m ih =>
    obtain ⟨c, w⟩ := e
    have hm' := hm
    simp only [Memory.wfFrom, Bool.and_eq_true, decide_eq_true_eq] at hm
    simp only [Memory.write]
    split
    · refine Memory.read_put ?_ a
      simp only [Memory.wfFrom, Bool.and_eq_true, decide_eq_true_eq]
      exact ⟨⟨⟨by omega, hm.1.1.2⟩, hm.1.2⟩, hm.2⟩
    · split
      · rename_i _ hbc
        subst hbc
        rw [Memory.read_put hm.2 a]
        simp only [Memory.read]
        split <;> simp_all
      · simp only [Memory.read, ih hm.2]
        split
        · have : a ≠ b := by omega
          simp [this]
        · rfl

/-- Every write keeps the canonical form. -/
theorem Memory.wfFrom_write {lo : Nat} {m : Memory} (hm : Memory.wfFrom lo m = true) {b : Nat} (hlo : lo ≤ b)
    (hb : b < Config.ramSize) (val : Byte) : Memory.wfFrom lo (m.write b val) = true := by
  induction m generalizing lo with
  | nil => exact Memory.wfFrom_put (m := []) rfl hlo hb
  | cons e m ih =>
    obtain ⟨c, w⟩ := e
    simp only [Memory.wfFrom, Bool.and_eq_true, decide_eq_true_eq] at hm
    simp only [Memory.write]
    split
    · refine Memory.wfFrom_put ?_ hlo hb
      simp only [Memory.wfFrom, Bool.and_eq_true, decide_eq_true_eq]
      exact ⟨⟨⟨by omega, hm.1.1.2⟩, hm.1.2⟩, hm.2⟩
    · split
      · rename_i _ hbc
        subst hbc
        exact Memory.wfFrom_put hm.2 hlo hb
      · simp only [Memory.wfFrom, Bool.and_eq_true, decide_eq_true_eq]
        exact ⟨⟨⟨hm.1.1.1, hm.1.1.2⟩, hm.1.2⟩, ih hm.2 (by omega)⟩

theorem mod_ramSize_lt (a : Nat) : a % Config.ramSize < Config.ramSize := Nat.mod_lt _ (by decide)

/-- `MemWrite` keeps the canonical form of RAM. -/
theorem memWrite_wf {s : State} (h : s.mem.wf = true) (a : Nat) (val : Byte) : (s.memWrite a val).mem.wf = true :=
  Memory.wfFrom_write h (Nat.zero_le _) (mod_ramSize_lt a) val

/-- `MemRead` after `MemWrite`: both reduce their address modulo 4096. -/
theorem memRead_memWrite {s : State} (h : s.mem.wf = true) (b : Nat) (val : Byte) (a : Nat) :
    (s.memWrite b val).memRead a = if a % 4096 = b % 4096 then val else s.memRead a :=
  Memory.read_write h _ _ _

theorem memRead_mod (s : State) (a : Nat) : s.memRead (a % 4096) = s.memRead a := by
  simp [State.memRead, Config.ramSize]

/-- RAM right after reset: nothing listed, canonical. -/
theorem reset_mem_wf : State.reset.mem.wf = true := rfl

end Sys2Proof.Machine
end

