-- ==== Sys2Proof/Laws/Ops.lean ====
section
/-! SUPPORT. What the shared operations over registers and the stack do, said once. -/

namespace Sys2Proof.Machine

/-- A register read after a register write. -/
theorem readV_writeV (s : State) (x r : Reg) (val : Byte) :
    (s.writeV x val).readV r = if r = x then val else s.readV r := by
  simp only [State.readV, State.writeV, Vector.getElem_set, BitVec.toNat_inj, eq_comm (a := r)]

@[simp] theorem readV_writeV_same (s : State) (x : Reg) (val : Byte) : (s.writeV x val).readV x = val := by
  simp [readV_writeV]

/-- A stack entry read after a push: the new entry at the old count, every other one as before. -/
theorem stackEntry_push (s : State) (a : Addr) (k : BitVec 5) :
    (s.push a).stackEntry k = if stackIndex k = stackIndex s.sp then a else s.stackEntry k := by
  simp only [State.stackEntry, State.push, Vector.getElem_set, BitVec.toNat_inj, eq_comm (a := stackIndex k)]

/-- What a push followed by a pop leaves: the count as before, the entry on top. -/
theorem push_pop (s : State) (a : Addr) :
    (s.push a).pop.sp = s.sp ∧ (s.push a).pop.stackEntry (s.push a).pop.sp = a := by
  have h : (s.push a).pop.sp = s.sp := by simp
  refine ⟨h, ?_⟩
  rw [h, pop_stackEntry, stackEntry_push]
  simp

/-- The skip operation: `pc` and nothing else, by 4 when the condition holds and by 2 otherwise. -/
theorem skipIf_eq (s : State) (c : Bool) : s.skipIf c = s.setPc (if c then s.pc + 4#12 else s.pc + 2#12) := by
  cases c <;> rfl

theorem toNat_add_two (a : Addr) : (a + 2#12).toNat = (a.toNat + 2) % 4096 := by simp [BitVec.toNat_add]

theorem toNat_add_four (a : Addr) : (a + 4#12).toNat = (a.toNat + 4) % 4096 := by simp [BitVec.toNat_add]

end Sys2Proof.Machine
end

