-- ==== Sys2Proof/Laws/Display.lean ====
section
/-! SUPPORT. The closed form of the drawing loop (43_display.md R192, R193): what every cell, the collision and the
toggled mark are after a row and after a sprite. The one idea: no cell is visited twice. -/

namespace Sys2Proof.Machine

theorem spriteCell_lt (x0 y0 : Byte) (r c : Nat) : spriteCell x0 y0 r c < 2048 := by
  simp only [spriteCell, cellIndex]; omega

/-- The 8 columns and the at most 32 rows of one sprite are distinct cells (43_display.md R193). -/
theorem spriteCell_inj {x0 y0 : Byte} {r c r' c' : Nat} (hr : r < 32) (hr' : r' < 32) (hc : c < 8) (hc' : c' < 8)
    (h : spriteCell x0 y0 r c = spriteCell x0 y0 r' c') : r = r' ∧ c = c' := by
  simp only [spriteCell, cellIndex] at h; omega

/-- Toggling one cell. -/
theorem fbToggle_cell (fb : Framebuffer) {k j : Nat} (hj : j < 2048) :
    (fbToggle fb k).getLsbD j = (fb.getLsbD j ^^ decide (j = k)) := by
  simp only [fbToggle, BitVec.getLsbD_xor, BitVec.getLsbD_shiftLeft, BitVec.getLsbD_one, hj, decide_true, Bool.true_and]
  congr 1
  by_cases h : j < k
  · simp [h, show j ≠ k by omega]
  · by_cases hk : j = k
    · simp [hk]
    · simp [h, hk, show j - k ≠ 0 by omega]

/-- The cells under a 1 bit of a row byte, among its first `cols` columns. -/
abbrev RowLit (x0 y0 b : Byte) (r cols k : Nat) : Prop :=
  ∃ c < cols, b.getLsbD (7 - c) = true ∧ spriteCell x0 y0 r c = k

/-- A column that is still to come is under no earlier one. -/
theorem not_rowLit_next (x0 y0 b : Byte) (r : Nat) {c : Nat} (hc : c < 8) :
    ¬ RowLit x0 y0 b r c (spriteCell x0 y0 r c) := by
  rintro ⟨c', hc', -, h⟩
  simp only [spriteCell, cellIndex] at h; omega

theorem drawRow_cell (x0 y0 b : Byte) (r cols : Nat) (hcols : cols ≤ 8) (d : DrawState) {k : Nat} (hk : k < 2048) :
    (drawRow x0 y0 b r cols d).fb.getLsbD k = (d.fb.getLsbD k ^^ decide (RowLit x0 y0 b r cols k)) := by
  induction cols with
  | zero => simp [drawRow, RowLit]
  | succ c ih =>
    have ih := ih (by omega)
    have hsucc : RowLit x0 y0 b r (c + 1) k ↔
        RowLit x0 y0 b r c k ∨ (b.getLsbD (7 - c) = true ∧ spriteCell x0 y0 r c = k) := Nat.exists_lt_succ_right
    simp only [drawRow, drawPixel]
    split
    · rename_i hb
      rw [fbToggle_cell _ hk, ih]
      by_cases he : k = spriteCell x0 y0 r c
      · have hno := not_rowLit_next x0 y0 b r (c := c) (by omega)
        rw [← he] at hno
        rw [decide_eq_false hno, decide_eq_true (hsucc.2 (.inr ⟨hb, he.symm⟩)), decide_eq_true he]
        simp
      · have : RowLit x0 y0 b r (c + 1) k ↔ RowLit x0 y0 b r c k := by rw [hsucc]; simp [Ne.symm he]
        rw [decide_eq_decide.2 this, decide_eq_false he, Bool.xor_false]
    · rename_i hb
      have : RowLit x0 y0 b r (c + 1) k ↔ RowLit x0 y0 b r c k := by rw [hsucc]; simp [hb]
      rw [ih, decide_eq_decide.2 this]

theorem drawRow_collision (x0 y0 b : Byte) (r cols : Nat) (hcols : cols ≤ 8) (d : DrawState) :
    (drawRow x0 y0 b r cols d).collision = true ↔ d.collision = true ∨
      ∃ c < cols, b.getLsbD (7 - c) = true ∧ d.fb.getLsbD (spriteCell x0 y0 r c) = true := by
  induction cols with
  | zero => simp [drawRow]
  | succ c ih =>
    have ih := ih (by omega)
    have hcell : (drawRow x0 y0 b r c d).fb.getLsbD (spriteCell x0 y0 r c) = d.fb.getLsbD (spriteCell x0 y0 r c) := by
      rw [drawRow_cell _ _ _ _ _ (by omega) _ (spriteCell_lt _ _ _ _),
        decide_eq_false (not_rowLit_next _ _ _ _ (by omega)), Bool.xor_false]
    rw [Nat.exists_lt_succ_right]
    simp only [drawRow, drawPixel]
    split
    · rename_i hb
      simp only [Bool.or_eq_true, fbCell, hcell, ih, hb, true_and, or_assoc]
    · rename_i hb
      simp only [ih, hb, Bool.false_eq_true, false_and, or_false]

theorem drawRow_toggled (x0 y0 b : Byte) (r cols : Nat) (d : DrawState) :
    (drawRow x0 y0 b r cols d).toggled = true ↔ d.toggled = true ∨ ∃ c < cols, b.getLsbD (7 - c) = true := by
  induction cols with
  | zero => simp [drawRow]
  | succ c ih =>
    rw [Nat.exists_lt_succ_right]
    simp only [drawRow, drawPixel]
    split <;> rename_i hb <;> simp [ih, hb]

/-- The cells under a 1 bit of the sprite's first `rows` rows: `S[k]` of 43_display.md R193. -/
abbrev SpriteLit (s : State) (x0 y0 : Byte) (rows k : Nat) : Prop :=
  ∃ r < rows, RowLit x0 y0 (s.memRead (s.effAddr r)) r 8 k

/-- A row that is still to come is under no earlier one. -/
theorem not_spriteLit_next (s : State) (x0 y0 : Byte) {r c : Nat} (hr : r < 32) (hc : c < 8) :
    ¬ SpriteLit s x0 y0 r (spriteCell x0 y0 r c) := by
  rintro ⟨r', hr', c', hc', -, h⟩
  have := (spriteCell_inj (by omega) (by omega) hc' hc h).1
  omega

theorem drawRows_cell (s : State) (x0 y0 : Byte) (rows : Nat) (hrows : rows ≤ 32) (d : DrawState) {k : Nat}
    (hk : k < 2048) :
    (s.drawRows x0 y0 rows d).fb.getLsbD k = (d.fb.getLsbD k ^^ decide (SpriteLit s x0 y0 rows k)) := by
  induction rows with
  | zero => simp [State.drawRows, SpriteLit]
  | succ r ih =>
    have hsucc : SpriteLit s x0 y0 (r + 1) k ↔
        SpriteLit s x0 y0 r k ∨ RowLit x0 y0 (s.memRead (s.effAddr r)) r 8 k := Nat.exists_lt_succ_right
    simp only [State.drawRows]
    rw [drawRow_cell _ _ _ _ _ (Nat.le_refl 8) _ hk, ih (by omega)]
    by_cases he : RowLit x0 y0 (s.memRead (s.effAddr r)) r 8 k
    · have hno : ¬ SpriteLit s x0 y0 r k := by
        obtain ⟨c, hc, -, h⟩ := he
        rw [← h]; exact not_spriteLit_next s x0 y0 (by omega) hc
      rw [decide_eq_false hno, decide_eq_true he, decide_eq_true (hsucc.2 (.inr he)), Bool.xor_false]
    · have : SpriteLit s x0 y0 (r + 1) k ↔ SpriteLit s x0 y0 r k := by rw [hsucc, or_iff_left he]
      rw [decide_eq_false he, decide_eq_decide.2 this, Bool.xor_false]

theorem drawRows_collision (s : State) (x0 y0 : Byte) (rows : Nat) (hrows : rows ≤ 32) (d : DrawState) :
    (s.drawRows x0 y0 rows d).collision = true ↔ d.collision = true ∨ ∃ r < rows, ∃ c < 8,
      (s.memRead (s.effAddr r)).getLsbD (7 - c) = true ∧ d.fb.getLsbD (spriteCell x0 y0 r c) = true := by
  induction rows with
  | zero => simp [State.drawRows]
  | succ r ih =>
    have hcell : ∀ c < 8, (s.drawRows x0 y0 r d).fb.getLsbD (spriteCell x0 y0 r c) =
        d.fb.getLsbD (spriteCell x0 y0 r c) := fun c hc => by
      rw [drawRows_cell _ _ _ _ (by omega) _ (spriteCell_lt _ _ _ _),
        decide_eq_false (not_spriteLit_next _ _ _ (by omega) hc), Bool.xor_false]
    have hrow : (∃ c < 8, (s.memRead (s.effAddr r)).getLsbD (7 - c) = true ∧
          (s.drawRows x0 y0 r d).fb.getLsbD (spriteCell x0 y0 r c) = true) ↔
        ∃ c < 8, (s.memRead (s.effAddr r)).getLsbD (7 - c) = true ∧ d.fb.getLsbD (spriteCell x0 y0 r c) = true :=
      exists_congr fun c => and_congr_right fun hc => by rw [hcell c hc]
    simp only [State.drawRows]
    rw [drawRow_collision _ _ _ _ _ (Nat.le_refl 8), hrow, ih (by omega),
      Nat.exists_lt_succ_right (n := r), or_assoc]

theorem drawRows_toggled (s : State) (x0 y0 : Byte) (rows : Nat) (d : DrawState) :
    (s.drawRows x0 y0 rows d).toggled = true ↔ d.toggled = true ∨ ∃ r < rows, ∃ c < 8,
      (s.memRead (s.effAddr r)).getLsbD (7 - c) = true := by
  induction rows with
  | zero => simp [State.drawRows]
  | succ r ih => rw [Nat.exists_lt_succ_right (n := r), State.drawRows, drawRow_toggled, ih, or_assoc]

end Sys2Proof.Machine
end

