-- ==== Sys2Proof/Laws/Operands.lean ====
section
/-! SUPPORT. What the operand operations and the flag-first order do, said once: register ranges to and from memory,
the highest pressed key, `flagThenResult`. -/

namespace Sys2Proof.Machine

/-- Storing a register range touches only RAM. -/
theorem storeRegs_eq (n : Nat) (s : State) : s.storeRegs n = { s with mem := (s.storeRegs n).mem } := by
  induction n with
  | zero => rfl
  | succ n ih => simp only [State.storeRegs]; rw [ih]; rfl

theorem storeRegs_readV (n : Nat) (s : State) (r : Reg) : (s.storeRegs n).readV r = s.readV r := by
  rw [storeRegs_eq]; rfl

theorem storeRegs_effAddr (n : Nat) (s : State) (k : Nat) : (s.storeRegs n).effAddr k = s.effAddr k := by
  rw [storeRegs_eq]; rfl

theorem storeRegs_wf {s : State} (h : s.mem.wf = true) (n : Nat) : (s.storeRegs n).mem.wf = true := by
  induction n with
  | zero => exact h
  | succ n ih => exact memWrite_wf ih _ _

/-- A byte outside the stored range reads as before. -/
theorem storeRegs_outside {s : State} (h : s.mem.wf = true) {n : Nat} {a : Nat}
    (ha : ∀ k < n, a % 4096 ≠ s.effAddr k % 4096) : (s.storeRegs n).memRead a = s.memRead a := by
  induction n with
  | zero => rfl
  | succ n ih =>
    simp only [State.storeRegs]
    rw [memRead_memWrite (storeRegs_wf h n), if_neg (by rw [storeRegs_effAddr]; exact ha n (by omega))]
    exact ih fun k hk => ha k (by omega)

/-- Byte `k` of the stored range is `V[k]`. -/
theorem storeRegs_inside {s : State} (h : s.mem.wf = true) {n : Nat} (hn : n ≤ 16) {k : Nat} (hk : k < n) :
    (s.storeRegs n).memRead (s.effAddr k) = s.readV (regOfNat k) := by
  induction n with
  | zero => omega
  | succ n ih =>
    simp only [State.storeRegs]
    rw [memRead_memWrite (storeRegs_wf h n), storeRegs_effAddr]
    split
    · rename_i he
      have : k = n := by simp only [State.effAddr] at he; omega
      subst this; exact storeRegs_readV _ _ _
    · rename_i he
      have : k ≠ n := fun hkn => he (by rw [hkn])
      exact ih (by omega) (by omega)

/-- Loading a register range touches only the general registers. -/
theorem loadRegs_eq (n : Nat) (s : State) : s.loadRegs n = { s with v := (s.loadRegs n).v } := by
  induction n with
  | zero => rfl
  | succ n ih => simp only [State.loadRegs]; rw [ih]; rfl

/-- The registers after loading a range: from memory inside it, unchanged outside. -/
theorem loadRegs_readV (s : State) {n : Nat} (hn : n ≤ 16) (r : Reg) :
    (s.loadRegs n).readV r = if r.toNat < n then s.memRead (s.effAddr r.toNat) else s.readV r := by
  induction n with
  | zero => rfl
  | succ n ih =>
    simp only [State.loadRegs]
    rw [readV_writeV, ih (by omega)]
    have hrn : r = regOfNat n ↔ r.toNat = n := by
      rw [← BitVec.toNat_inj, regOfNat, BitVec.toNat_ofNat, Nat.mod_eq_of_lt (by omega)]
    have hm : ∀ a, (s.loadRegs n).memRead a = s.memRead a := fun a => by rw [loadRegs_eq]; rfl
    have he : (s.loadRegs n).effAddr n = s.effAddr n := by rw [loadRegs_eq]; rfl
    split
    · rename_i h
      have h := hrn.1 h
      rw [hm, he, if_pos (by omega), h]
    · rename_i h
      have h : r.toNat ≠ n := fun h' => h (hrn.2 h')
      by_cases hlt : r.toNat < n
      · rw [if_pos hlt, if_pos (by omega)]
      · rw [if_neg hlt, if_neg (by omega)]

/-- The scan for the highest pressed key finds none exactly when none below the bound is pressed. -/
theorem highestKeyBelow_none {keys : Keys} {n : Nat} :
    highestKeyBelow keys n = none ↔ ∀ j < n, keys.getLsbD j = false := by
  induction n with
  | zero => simp [highestKeyBelow]
  | succ n ih =>
    simp only [highestKeyBelow]
    split
    · rename_i h
      simp only [reduceCtorEq, false_iff]
      exact fun hj => by simp [hj n (by omega)] at h
    · rename_i h
      rw [ih]
      constructor
      · intro hj j hlt
        by_cases hjn : j = n
        · subst hjn; simpa using h
        · exact hj j (by omega)
      · exact fun hj j hlt => hj j (by omega)

/-- The key the scan finds is pressed, and no higher one below the bound is. -/
theorem highestKeyBelow_some {keys : Keys} {n : Nat} (hn : n ≤ 16) {k : Nibble} (h : highestKeyBelow keys n = some k) :
    k.toNat < n ∧ keys.getLsbD k.toNat = true ∧ ∀ j < n, k.toNat < j → keys.getLsbD j = false := by
  induction n with
  | zero => simp [highestKeyBelow] at h
  | succ n ih =>
    simp only [highestKeyBelow] at h
    split at h
    · rename_i hp
      cases h
      have hk : (BitVec.ofNat 4 n).toNat = n := by
        rw [BitVec.toNat_ofNat, Nat.mod_eq_of_lt (by omega)]
      rw [hk]
      exact ⟨by omega, hp, fun j hj hlt => by omega⟩
    · rename_i hp
      obtain ⟨h1, h2, h3⟩ := ih (by omega) h
      refine ⟨by omega, h2, fun j hj hlt => ?_⟩
      by_cases hjn : j = n
      · subst hjn; simpa using hp
      · exact h3 j (by omega) hlt

/-- The registers after a flag-first instruction: the operands of the result are read after the flag is in `VF`, and
the result overwrites the flag when `x` is F (41_alu.md R146). -/
theorem flagThenResult_readV (s : State) (x y r : Reg) (f g : Byte → Byte → Byte) :
    (s.flagThenResult x y f g).readV r =
      if r = x then
        g (if x = Reg.F then f (s.readV x) (s.readV y) else s.readV x)
          (if y = Reg.F then f (s.readV x) (s.readV y) else s.readV y)
      else if r = Reg.F then f (s.readV x) (s.readV y) else s.readV r := by
  simp only [State.flagThenResult, advance_readV, readV_writeV]

/-- A flag-first instruction touches only the general registers and `pc`. -/
theorem flagThenResult_eq (s : State) (x y : Reg) (f g : Byte → Byte → Byte) :
    s.flagThenResult x y f g = { s with v := (s.flagThenResult x y f g).v, pc := s.pc + 2#12 } := rfl

end Sys2Proof.Machine
end

