-- ==== Sys2Proof/Laws/Step.lean ====
section
/-! SUPPORT. What an event and a step can do, said once. -/

namespace Sys2Proof.Machine

/-- The step's next event is at the head of the queue. -/
theorem step_pending {s : State} {e : Event} {rest : List Event} (h : s.events = e :: rest) :
    step s = transition e { s with events := rest } := by
  simp only [step, State.runNext, h]

/-- With no event pending, the step is a `Step` event on free inputs (log 1, log 2, log 3). -/
theorem step_idle {s : State} (h : s.events = []) :
    step s = State.stepEvent { s with sampleNo := s.sampleNo + 1 } (Config.freeKeys s.sampleNo)
      (Config.freeRnd s.sampleNo) := by
  simp only [step, State.runNext, h]

/-- What a `Step` event can do: nothing while a fault is latched; otherwise sample the inputs, then either run the
decoded instruction or take the soft failure. -/
theorem stepEvent_cases (s : State) (k : Keys) (r : Byte) :
    (s.fault ≠ .none ∧ s.stepEvent k r = .next s) ∨
    (s.fault = .none ∧ ∃ i, decodeWord s.fetchWord = .instr i ∧ s.stepEvent k r = exec i (s.sample k r)) ∨
    (s.fault = .none ∧ ∃ f, decodeWord s.fetchWord = .unknown f ∧
      s.stepEvent k r = .next ((s.sample k r).unknownInstr s.fetchWord)) := by
  have hf : (s.sample k r).fetchWord = s.fetchWord := rfl
  by_cases h : s.fault = .none
  · right
    cases hd : decodeWord s.fetchWord with
    | instr i => exact .inl ⟨h, i, rfl, by simp only [State.stepEvent, if_pos h, State.cycle, hf, hd]⟩
    | unknown f => exact .inr ⟨h, f, rfl, by simp only [State.stepEvent, if_pos h, State.cycle, hf, hd]⟩
  · exact .inl ⟨h, by simp only [State.stepEvent, if_neg h]⟩

/-- Everything `Tick` does (60_exceptions.md R240). -/
theorem tick_eq (s : State) : s.tick =
    { s with dt      := if s.dt = 0#8 then 0#8 else s.dt - 1#8
             st      := if s.st = 0#8 then 0#8 else s.st - 1#8
             outputs := if s.st = 1#8 then .tone :: s.outputs else s.outputs } := by
  obtain ⟨v, i, pc, sp, stack, dt, st, mem, fb, redraw, fault, keys, rnd, outputs, events, sampleNo⟩ := s
  by_cases hd : dt = 0#8 <;> by_cases hs : st = 0#8 <;> by_cases h1 : st = 1#8 <;>
    simp [State.tick, State.tickSound, State.tickDelay, State.setDt, State.setSt, State.emit, hd, hs, h1]

end Sys2Proof.Machine
end

