-- ==== Sys2Proof/Laws/Frames.lean ====
section
/-! SUPPORT. The frames of Sys2Proof/Safety.lean for the shared operations, once each, and the flag values as numbers. -/

namespace Sys2Proof.Machine

theorem pcPlus2_of {s t : State} (h : t.pc = s.pc + 2#12) : PcPlus2 s t := by
  rw [PcPlus2, h, toNat_add_two]

theorem pcPlus4_of {s t : State} (h : t.pc = s.pc + 4#12) : PcPlus4 s t := by
  rw [PcPlus4, h, toNat_add_four]

/-- A state that differs from `s` only in `pc` and the registers in `w`. -/
theorem onlyRegs_of {w : Reg → Prop} {s t : State} (hr : SameRegsBut w s t)
    (h : t = { s with v := t.v, pc := t.pc }) : OnlyRegs w s t := by
  refine ⟨hr, ?_, ⟨?_, ?_, ?_, ?_⟩, fun a => ?_, ⟨?_, ?_⟩, ?_, ?_, ?_, ?_, ?_, ?_⟩ <;> rw [h]
  rfl

/-- Setting `pc` writes nothing else. -/
theorem onlyPc_setPc (s : State) (a : Addr) : OnlyPc s (s.setPc a) := onlyRegs_of (fun _ _ => rfl) rfl

/-- A register write followed by the advance writes that register and `pc`. -/
theorem onlyRegs_writeV_advance (s : State) (x : Reg) (val : Byte) : OnlyRegs (· = x) s (s.writeV x val).advance :=
  onlyRegs_of (fun r h => by rw [advance_readV, readV_writeV, if_neg h]) rfl

/-- A flag-first instruction writes its destination, `VF` and `pc`. -/
theorem onlyRegs_flagThenResult (s : State) (x y : Reg) (f g : Byte → Byte → Byte) :
    OnlyRegs (fun r => r = x ∨ r = Reg.F) s (s.flagThenResult x y f g) :=
  onlyRegs_of (fun r h => by rw [flagThenResult_readV, if_neg (not_or.1 h).1, if_neg (not_or.1 h).2]) rfl

/-- The skip operation: plus 4 when the condition holds, plus 2 otherwise, and only `pc`. -/
theorem skipIf_spec (s : State) {c : Bool} {P : Prop} (h : c = true ↔ P) :
    SkipsIff P s (s.skipIf c) ∧ OnlyPc s (s.skipIf c) := by
  rw [skipIf_eq]
  refine ⟨⟨fun hp => pcPlus4_of ?_, fun hp => pcPlus2_of ?_⟩, onlyPc_setPc _ _⟩
  · rw [h.2 hp]; rfl
  · rw [Bool.eq_false_iff.2 fun hc => hp (h.1 hc)]; rfl

/-- Carry as a number (41_alu.md R147, R153). -/
theorem carryFlag_toNat (a b : Byte) : (carryFlag a b).toNat = if a.toNat + b.toNat > 255 then 1 else 0 := by
  have h : b > 0xFF#8 - a ↔ a.toNat + b.toNat > 255 := by bv_omega
  simp only [carryFlag, flagByte, h, decide_eq_true_eq]
  split <;> rfl

/-- No-borrow of SUB as a number (41_alu.md R148). -/
theorem subFlag_toNat (a b : Byte) : (subFlag a b).toNat = if b.toNat > a.toNat then 0 else 1 := by
  simp only [subFlag, flagByte, gt_iff_lt, BitVec.lt_def]
  by_cases h : a.toNat < b.toNat <;> simp [h]

/-- No-borrow of SUBN as a number (41_alu.md R150). -/
theorem subnFlag_toNat (a b : Byte) : (subnFlag a b).toNat = if b.toNat < a.toNat then 0 else 1 := by
  simp only [subnFlag, flagByte, BitVec.lt_def]
  by_cases h : b.toNat < a.toNat <;> simp [h]

/-- The bit SHR shifts out, as a number (41_alu.md R149). -/
theorem shrFlag_toNat (a : Byte) : (shrFlag a).toNat = a.toNat % 2 := by simp [shrFlag, Nat.and_one_is_mod]

/-- The bit SHL shifts out, as a number (41_alu.md R151). -/
theorem shlFlag_toNat (a : Byte) : (shlFlag a).toNat = a.toNat / 128 := by simp [shlFlag, Nat.shiftRight_eq_div_pow]

end Sys2Proof.Machine
end

