-- ==== Sys2Proof/Tests/Slice0.lean ====
section
/-! SUPPORT. Tests of the model. Expected values come from the spec: the test vectors of spec/95_test_vectors.md (their
ids stand in the docstrings) and the encodings of spec/30_encoding.md R98. Then one witness for the hypotheses of every
statement that has some. -/

open Sys2Proof Sys2Proof.Machine Sys2Proof.Claims

namespace Sys2Proof.Tests

/-! ### WellFormed: each check refuses an ill-formed term -/

/-- X5: 0x8AB8 selects no row; 0x8AB7 selects one. -/
theorem smoke_wordIsInstr : wordIsInstr 0x8AB8 = false ∧ wordIsInstr 0x8AB7 = true := by decide

/-- F20: 0x512F is SE V1, V2 with a don't-care digit that an assembler leaves 0 (30_encoding.md R96). -/
theorem smoke_wordIsCanonical :
    wordIsCanonical 0x512F = false ∧ wordIsInstr 0x512F = true ∧ wordIsCanonical 0x5120 = true := by decide

/-- A ROM of 3585 bytes is too long, one of 3584 fits (70_reset_and_hazards.md R266). -/
theorem smoke_romFits : romFits (List.replicate 3585 0) = false ∧ romFits (List.replicate 3584 0) = true := by
  simp only [romFits, List.length_replicate]; decide

/-- No load below 0x200 (10_state.md R44). -/
theorem smoke_loadAllowed : loadAllowed 0x1FF = false ∧ loadAllowed 0x200 = true := by decide

/-! ### Decoding: words written out bit by bit from 30_encoding.md R98 and R91 -/

theorem test_decode_family0 :
    decodeWord 0b0000_0000_1110_0000#16 = .instr .cls ∧ decodeWord 0b0000_1010_1110_0000#16 = .instr .cls ∧
    decodeWord 0b0000_0000_1110_1110#16 = .instr .ret ∧ decodeWord 0b0000_0101_1110_1110#16 = .instr .ret ∧
    decodeWord 0b0000_0000_0000_0000#16 = .unknown .family0 := by decide

theorem test_decode_nnn :
    decodeWord 0b0001_1010_1011_1100#16 = .instr (.jmp 0xABC) ∧
    decodeWord 0b0010_0011_0000_0001#16 = .instr (.call 0x301) ∧
    decodeWord 0b1010_0010_1111_0000#16 = .instr (.ldI 0x2F0) ∧
    decodeWord 0b1011_1000_0000_0001#16 = .instr (.jmpV0 0x801) := by decide

theorem test_decode_xnn :
    decodeWord 0b0011_0011_0010_1010#16 = .instr (.seImm 0x3 0x2A) ∧
    decodeWord 0b0100_0011_0010_1010#16 = .instr (.sneImm 0x3 0x2A) ∧
    decodeWord 0b0110_1010_0000_0101#16 = .instr (.ldImm 0xA 0x05) ∧
    decodeWord 0b0111_1111_1111_0101#16 = .instr (.addImm 0xF 0xF5) ∧
    decodeWord 0b1100_0011_0000_1111#16 = .instr (.rnd 0x3 0x0F) := by decide

theorem test_decode_xy :
    decodeWord 0b0101_0001_0010_0000#16 = .instr (.seReg 0x1 0x2) ∧
    decodeWord 0b1001_0001_0010_0101#16 = .instr (.sneReg 0x1 0x2) ∧
    decodeWord 0b1101_0001_0010_0101#16 = .instr (.drw 0x1 0x2 0x5) := by decide

theorem test_decode_family8 :
    decodeWord 0b1000_0001_0010_0000#16 = .instr (.ldReg 0x1 0x2) ∧
    decodeWord 0b1000_0001_0010_0001#16 = .instr (.orReg 0x1 0x2) ∧
    decodeWord 0b1000_0001_0010_0010#16 = .instr (.andReg 0x1 0x2) ∧
    decodeWord 0b1000_0001_0010_0011#16 = .instr (.xorReg 0x1 0x2) ∧
    decodeWord 0b1000_0001_0010_0100#16 = .instr (.addReg 0x1 0x2) ∧
    decodeWord 0b1000_0001_0010_0101#16 = .instr (.sub 0x1 0x2) ∧
    decodeWord 0b1000_0011_0100_0110#16 = .instr (.shr 0x3) ∧
    decodeWord 0b1000_0001_0010_0111#16 = .instr (.subn 0x1 0x2) ∧
    decodeWord 0b1000_0011_0101_1110#16 = .instr (.shl 0x3) ∧
    decodeWord 0b1000_1010_1011_1111#16 = .unknown .family8 := by decide

theorem test_decode_familyE :
    decodeWord 0b1110_0101_1001_1110#16 = .instr (.skp 0x5) ∧
    decodeWord 0b1110_0101_1010_0001#16 = .instr (.sknp 0x5) ∧
    decodeWord 0b1110_0001_1001_1111#16 = .unknown .familyE := by decide

theorem test_decode_familyF :
    decodeWord 0b1111_0011_0000_0111#16 = .instr (.ldFromDt 0x3) ∧
    decodeWord 0b1111_0011_0000_1010#16 = .instr (.ldKey 0x3) ∧
    decodeWord 0b1111_0011_0001_0101#16 = .instr (.ldDt 0x3) ∧
    decodeWord 0b1111_0011_0001_1000#16 = .instr (.ldSt 0x3) ∧
    decodeWord 0b1111_0010_0001_1110#16 = .instr (.addI 0x2) ∧
    decodeWord 0b1111_0100_0010_1001#16 = .instr (.ldFont 0x4) ∧
    decodeWord 0b1111_0111_0011_0011#16 = .instr (.bcd 0x7) ∧
    decodeWord 0b1111_0011_0101_0101#16 = .instr (.store 0x3) ∧
    decodeWord 0b1111_1111_0110_0101#16 = .instr (.load 0xF) ∧
    decodeWord 0b1111_0001_0110_0110#16 = .unknown .familyF := by decide

/-- S8: the bytes `6A 05`, high byte first. -/
theorem test_decode_bytes :
    decode [0x6A, 0x05, 0x12] = some (.instr (.ldImm 0xA 0x05), [0x12]) ∧ decode [0x6A] = none := by decide

/-! ### One step of each instruction -/

/-- What the outcome's next state satisfies. -/
def after (o : Host.Outcome State Fault Refusal) (p : State → Bool) : Bool :=
  match o with
  | .next t    => p t
  | .fault _   => false
  | .refused _ => false

/-- One step on the word `w` placed at `pc`. -/
def run1 (w : Nat) (s : State) (p : State → Bool) : Bool := after (step (s.withFetchWord 16 w)) p

/-- The reset state with some registers written. -/
def regs (l : List (Reg × Byte)) : State := l.foldl (fun s e => s.writeV e.1 e.2) State.reset

/-- The state `s` with bytes `l` at `a`, `a + 1`, ... -/
def bytes (a : Nat) : List Byte → State → State
  | [], s     => s
  | b :: l, s => bytes (a + 1) l (s.memWrite a b)

/-- The state `s` with the sampled inputs the ports show. -/
def inputs (keys : Keys) (rnd : Byte) (s : State) : State := { s with keys := keys, rnd := rnd }

/-- G2 -/
theorem test_cls : run1 0x00E0 { regs [(0xF, 1)] with fb := 5 }
    (fun t => t.fb == 0 && t.redraw && t.readV 0xF == 1 && t.pc == 0x202) = true := by decide +kernel

/-- F6 -/
theorem test_ret : run1 0x00EE { State.reset with pc := 0x300, sp := 1, stack := State.reset.stack.set 0 0xFFF }
    (fun t => t.sp == 0 && t.pc == 0x001 && t.stackEntry 0 == 0xFFF) = true := by decide

/-- F9 -/
theorem test_ret_underflow : run1 0x00EE { State.reset with pc := 0x2AA }
    (fun t => t.fault == .stackUnderflow 0x2AA && t.sp == 0 && t.pc == 0x2AA) = true := by decide

/-- F1 -/
theorem test_jmp : run1 0x1ABC State.reset (fun t => t.pc == 0xABC) = true := by decide

/-- F7 -/
theorem test_call : run1 0x2400 { State.reset with pc := 0x2AA, sp := 15 }
    (fun t => t.stack[15] == 0x2AA && t.sp == 16 && t.pc == 0x400) = true := by decide

/-- F8 -/
theorem test_call_overflow : run1 0x2400 { State.reset with pc := 0x2AA, sp := 16 }
    (fun t => t.fault == .stackOverflow 0x2AA && t.sp == 16 && t.pc == 0x2AA) = true := by decide

/-- F14, F15 -/
theorem test_seImm : (run1 0x332A (regs [(3, 0x2A)]) (fun t => t.pc == 0x204) &&
    run1 0x332A (regs [(3, 0x2B)]) (fun t => t.pc == 0x202)) = true := by decide

/-- F25: a taken skip wraps. -/
theorem test_seImm_wraps : run1 0x3000 { State.reset with pc := 0xFFE } (fun t => t.pc == 0x002) = true := by decide

/-- F16, F17 -/
theorem test_sneImm : (run1 0x432A (regs [(3, 0x2A)]) (fun t => t.pc == 0x202) &&
    run1 0x432A (regs [(3, 0x00)]) (fun t => t.pc == 0x204)) = true := by decide

/-- F18, F19 -/
theorem test_seReg : (run1 0x5120 { regs [(1, 7), (2, 7)] with pc := 0x210 } (fun t => t.pc == 0x214) &&
    run1 0x5120 { regs [(1, 7), (2, 8)] with pc := 0x210 } (fun t => t.pc == 0x212)) = true := by decide

/-- F22, F23 -/
theorem test_sneReg : (run1 0x9120 { regs [(1, 7), (2, 8)] with pc := 0x210 } (fun t => t.pc == 0x214) &&
    run1 0x9120 { regs [(1, 7), (2, 7)] with pc := 0x210 } (fun t => t.pc == 0x212)) = true := by decide

/-- A1; F3, fetched across the top of memory -/
theorem test_ldImm : (run1 0x6A05 State.reset (fun t => t.readV 0xA == 0x05 && t.pc == 0x202) &&
    run1 0x60F0 { State.reset with pc := 0xFFF } (fun t => t.readV 0 == 0xF0 && t.pc == 0x001)) = true := by decide

/-- A3 -/
theorem test_addImm : run1 0x7203 (regs [(2, 0xFE), (0xF, 7)])
    (fun t => t.readV 2 == 0x01 && t.readV 0xF == 7 && t.pc == 0x202) = true := by decide

/-- A6 -/
theorem test_ldReg : run1 0x8120 (regs [(1, 0x33), (2, 0x77)])
    (fun t => t.readV 1 == 0x77 && t.readV 2 == 0x77) = true := by decide

/-- A7 -/
theorem test_orReg : run1 0x8121 (regs [(1, 0xF0), (2, 0x0F), (0xF, 1)])
    (fun t => t.readV 1 == 0xFF && t.readV 0xF == 1) = true := by decide

/-- A8 -/
theorem test_andReg : run1 0x8122 (regs [(1, 0xF3), (2, 0x3C), (0xF, 1)])
    (fun t => t.readV 1 == 0x30 && t.readV 0xF == 1) = true := by decide

/-- A9 -/
theorem test_xorReg : run1 0x8123 (regs [(1, 0xFF), (2, 0x0F), (0xF, 1)])
    (fun t => t.readV 1 == 0xF0 && t.readV 0xF == 1) = true := by decide

/-- A11, A14 -/
theorem test_addReg : (run1 0x8124 (regs [(1, 0xF0), (2, 0x20)]) (fun t => t.readV 0xF == 1 && t.readV 1 == 0x10) &&
    run1 0x8124 (regs [(1, 0x7F), (2, 0x80)]) (fun t => t.readV 0xF == 0 && t.readV 1 == 0xFF)) = true := by decide

/-- A16, A18, A20: the flag is written first. -/
theorem test_addReg_alias : (run1 0x81F4 (regs [(1, 0x10), (0xF, 0xF8)]) (fun t => t.readV 0xF == 1 && t.readV 1 == 0x11) &&
    run1 0x8F14 (regs [(0xF, 0xF0), (1, 0x20)]) (fun t => t.readV 0xF == 0x21) &&
    run1 0x8FF4 (regs [(0xF, 0x90)]) (fun t => t.readV 0xF == 0x02)) = true := by decide

/-- A22, A23 -/
theorem test_sub : (run1 0x8125 (regs [(1, 0x10), (2, 0x20)]) (fun t => t.readV 0xF == 0 && t.readV 1 == 0xF0) &&
    run1 0x8125 (regs [(1, 0x20), (2, 0x20)]) (fun t => t.readV 0xF == 1 && t.readV 1 == 0x00)) = true := by decide

/-- A27, A28, A30 -/
theorem test_sub_alias : (run1 0x81F5 (regs [(1, 0x09), (0xF, 0x05)]) (fun t => t.readV 0xF == 1 && t.readV 1 == 0x08) &&
    run1 0x8F15 (regs [(0xF, 0x05), (1, 0x03)]) (fun t => t.readV 0xF == 0xFE) &&
    run1 0x8FF5 (regs [(0xF, 0x07)]) (fun t => t.readV 0xF == 0x00)) = true := by decide

/-- A32, A35 -/
theorem test_shr : (run1 0x8346 (regs [(3, 0x05), (4, 0xAA)])
      (fun t => t.readV 0xF == 1 && t.readV 3 == 0x02 && t.readV 4 == 0xAA) &&
    run1 0x8F06 (regs [(0xF, 0x03)]) (fun t => t.readV 0xF == 0x00)) = true := by decide

/-- A36, A37 -/
theorem test_subn : (run1 0x8127 (regs [(1, 0x10), (2, 0x20)]) (fun t => t.readV 0xF == 1 && t.readV 1 == 0x10) &&
    run1 0x8127 (regs [(1, 0x20), (2, 0x10)]) (fun t => t.readV 0xF == 0 && t.readV 1 == 0xF0)) = true := by decide

/-- A39, A41, A43 -/
theorem test_subn_alias : (run1 0x81F7 (regs [(1, 0x05), (0xF, 0x09)]) (fun t => t.readV 0xF == 1 && t.readV 1 == 0xFC) &&
    run1 0x8F17 (regs [(0xF, 0x05), (1, 0x09)]) (fun t => t.readV 0xF == 0x08) &&
    run1 0x8FF7 (regs [(0xF, 0x07)]) (fun t => t.readV 0xF == 0x00)) = true := by decide

/-- A44, A47 -/
theorem test_shl : (run1 0x830E (regs [(3, 0x81)]) (fun t => t.readV 0xF == 1 && t.readV 3 == 0x02) &&
    run1 0x8F0E (regs [(0xF, 0x80)]) (fun t => t.readV 0xF == 0x02)) = true := by decide

/-- A49, A50 -/
theorem test_rnd : (run1 0xC3FF (inputs 0 0xFF (regs [(3, 0xEE)])) (fun t => t.readV 3 == 0x00) &&
    run1 0xC30F (inputs 0 0xAB State.reset) (fun t => t.readV 3 == 0x0B)) = true := by decide

/-- M1 -/
theorem test_ldI : run1 0xA2F0 State.reset (fun t => t.i == 0x2F0 && t.pc == 0x202) = true := by decide

/-- F13 -/
theorem test_jmpV0 : run1 0xBFFF (regs [(0, 0xFF)]) (fun t => t.pc == 0x0FE) = true := by decide

/-- M4 -/
theorem test_addI : run1 0xF21E { regs [(2, 0xFF)] with i := 0xFFF }
    (fun t => t.i == 0x0FE && t.readV 0xF == 0) = true := by decide

/-- M5, M9 -/
theorem test_ldFont : (run1 0xF429 (regs [(4, 0x0A)]) (fun t => t.i == 0x032) &&
    run1 0xF429 (regs [(4, 0xFF)]) (fun t => t.i == 0x4FB)) = true := by decide

/-- M10 (the document's 234), M15 across the top of memory -/
theorem test_bcd : (run1 0xF033 { regs [(0, 234)] with i := 0x300 }
      (fun t => t.memRead 0x300 == 2 && t.memRead 0x301 == 3 && t.memRead 0x302 == 4 && t.i == 0x300) &&
    run1 0xF733 { regs [(7, 123)] with i := 0xFFE }
      (fun t => t.memRead 0xFFE == 1 && t.memRead 0xFFF == 2 && t.memRead 0x000 == 3)) = true := by decide

/-- M17, M19 -/
theorem test_store : (run1 0xF055 { regs [(0, 0x11), (1, 0x22)] with i := 0x300 }
      (fun t => t.memRead 0x300 == 0x11 && t.memRead 0x301 == 0x00 && t.i == 0x301) &&
    run1 0xF355 { regs [(0, 0x11), (1, 0x22), (2, 0x33), (3, 0x44)] with i := 0xFFE }
      (fun t => t.memRead 0xFFF == 0x22 && t.memRead 0x000 == 0x33 && t.memRead 0x001 == 0x44 && t.i == 0x002)) = true := by
  decide

/-- M21: the font, all sixteen registers -/
theorem test_load : run1 0xFF65 State.reset (fun t => t.i == 0x010 &&
    t.v.toList == [0xF0, 0x90, 0x90, 0x90, 0xF0, 0x20, 0x60, 0x20, 0x20, 0x70, 0xF0, 0x10, 0xF0, 0x80, 0xF0, 0xF0]) = true := by
  decide

/-- G6: a sprite over the bottom edge; cells (0,30), (0,31), (0,0), (0,1) -/
theorem test_drw : run1 0xD014 (bytes 0x300 [0x80, 0x80, 0x80, 0x80] { regs [(1, 30)] with i := 0x300 })
    (fun t => t.fb == ((1#2048 <<< 1920) ||| (1#2048 <<< 1984) ||| 1#2048 ||| (1#2048 <<< 64)) && t.readV 0xF == 0 &&
      t.redraw && t.pc == 0x202) = true := by decide +kernel

/-- G10: collision; cell (2,0) cleared, the seven others of the row set -/
theorem test_drw_collision : run1 0xD011 (bytes 0x300 [0xFF] { State.reset with i := 0x300, fb := 4 })
    (fun t => t.fb == 0xFB && t.readV 0xF == 1 && t.redraw) = true := by decide +kernel

/-- K1, K2, K3 -/
theorem test_skp : (run1 0xE59E (inputs 0x0080 0 { regs [(5, 0x07)] with pc := 0x220 }) (fun t => t.pc == 0x224) &&
    run1 0xE59E (inputs 0xFF7F 0 { regs [(5, 0x07)] with pc := 0x220 }) (fun t => t.pc == 0x222) &&
    run1 0xE59E (inputs 0x0080 0 { regs [(5, 0x17)] with pc := 0x220 }) (fun t => t.pc == 0x224)) = true := by decide

/-- K4, K6 -/
theorem test_sknp : (run1 0xE5A1 { regs [(5, 0x07)] with pc := 0x220 } (fun t => t.pc == 0x224) &&
    run1 0xE5A1 (inputs 0x0001 0 { regs [(5, 0xF0)] with pc := 0x220 }) (fun t => t.pc == 0x222)) = true := by decide

/-- K7 -/
theorem test_ldKey_stall : run1 0xF30A { regs [(3, 0x55)] with pc := 0x230 }
    (fun t => t.pc == 0x230 && t.readV 3 == 0x55) = true := by decide

/-- K8: keys 3 and 9 -/
theorem test_ldKey : run1 0xF30A (inputs 0x0208 0 { regs [(3, 0x55)] with pc := 0x230 })
    (fun t => t.pc == 0x232 && t.readV 3 == 0x09) = true := by decide

/-- K11 -/
theorem test_ldFromDt : run1 0xF307 { State.reset with dt := 0x2C }
    (fun t => t.readV 3 == 0x2C && t.dt == 0x2C) = true := by decide

/-- K12 -/
theorem test_ldDt : run1 0xF315 (regs [(3, 0x3C)]) (fun t => t.dt == 60 && t.pc == 0x202) = true := by decide

/-- K13 -/
theorem test_ldSt : run1 0xF318 (regs [(3, 0x02)])
    (fun t => t.st == 2 && t.outputs == [] && t.pc == 0x202) = true := by decide

/-! ### Events and the step -/

/-- X15 -/
theorem test_unknown_word : run1 0x0000 { State.reset with pc := 0xFFE }
    (fun t => t.pc == 0x000 && t.outputs == [.unknown 0x0000 0xFFE] && t.fault == .none) = true := by decide

/-- T1: DT = 2, ST = 1 -/
theorem test_tick : after (transition .tick { State.reset with dt := 2, st := 1 })
    (fun t => t.dt == 1 && t.st == 0 && t.outputs == [.tone]) = true := by decide

/-- T3: at 0 a timer stays 0 -/
theorem test_tick_zero : after (transition .tick State.reset)
    (fun t => t.dt == 0 && t.st == 0 && t.outputs == []) = true := by decide

/-- E2: a faulted step changes nothing. -/
theorem test_faulted_step :
    after (transition (.step 0xFFFF 7) { State.reset with fault := .stackOverflow 0x2AA })
      (fun t => t == { State.reset with fault := .stackOverflow 0x2AA }) = true := by decide +kernel

/-- E1 -/
theorem test_reset_event : after (transition .reset (bytes 0 [1, 2] { regs [(3, 9)] with pc := 0x777, sp := 3 }))
    (fun t => t == State.reset && t.memRead 0x000 == 0xF0 && t.memRead 0x04F == 0x80 && t.memRead 0x050 == 0) = true := by
  decide +kernel

/-! ### The canonical form of RAM -/

/-- Writing what an unlisted address reads as removes the entry; addresses wrap modulo 4096. -/
theorem test_memory_canonical :
    ((State.reset.memWrite 0x1300 7).memWrite 0x300 0).mem = [] ∧
    ((State.reset.memWrite 0x301 7).memWrite 0x300 8).mem = [(0x300, 8), (0x301, 7)] := by decide

/-! ### Witnesses: the hypotheses of each statement hold together somewhere -/

/-- The state after the document's ROM `6A 05` is loaded, with one `Step` pending. -/
def loaded : State := { bytes 0x200 [0x6A, 0x05] State.reset with events := [.step 0x0001 0xFF] }

/-- A self-jump at 0x200. -/
def spin : State := bytes 0x200 [0x12, 0x00] State.reset

theorem witness_rows : (∀ i ∈ rowSamples, i.row.pat &&& i.row.mask = i.row.pat) := by decide

theorem witness_no_row : ∀ i : Instr, (0x0000 : Word) &&& i.row.mask ≠ i.row.pat := by
  intro i; cases i <;> simp [Instr.row]

theorem witness_opcodeTable :
    decodeWord 0x6A05 = .instr (.ldImm 0xA 0x05) ∧ (∃ r ∈ opcodeTable, r.selects 0x6A05 = true) := by decide

theorem witness_step : loaded.events = .step 0x0001 0xFF :: [] ∧ loaded.fault = .none ∧
    decodeWord (wordAtPc loaded) = .instr (.ldImm 0xA 0x05) := by decide

theorem witness_idle : ({ loaded with events := [] } : State).events = [] ∧ loaded.fault = .none ∧
    decodeWord (wordAtPc { loaded with events := [] }) = .instr (.ldImm 0xA 0x05) := by decide

theorem witness_unknown : State.reset.fault = .none ∧ decodeWord (wordAtPc State.reset) = .unknown .family0 := by decide

theorem witness_faulted : ({ State.reset with fault := .stackUnderflow 0x200 } : State).fault ≠ .none ∧
    ∃ t, transition .tick { State.reset with fault := .stackUnderflow 0x200 } = .next t ∧ Event.tick ≠ .reset :=
  ⟨by decide, _, rfl, by decide⟩

theorem witness_placed : State.reset.mem.wf = true ∧ decodeTableWord 16 0xFF65 = some (.load 0xF) := by decide

theorem witness_invariant : ∃ t, loaded.Inv ∧ step loaded = .next t :=
  ⟨_, ⟨by decide, by decide⟩, rfl⟩

theorem witness_rom : ([] : List Byte).length ≤ 3584 ∧ (List.replicate 3584 (1 : Byte)).length ≤ 3584 ∧
    (List.replicate 3585 (1 : Byte)).length > 3584 := by
  simp only [List.length_replicate]; decide

/-- One entry, a full stack, an empty stack. -/
theorem witness_ret : (∃ s : State, s.sp.toNat ≤ 16 ∧ 1 ≤ s.sp.toNat ∧ s.sp.toNat = 0 + 1) ∧
    (∃ s : State, s.sp.toNat ≤ 16 ∧ 1 ≤ s.sp.toNat ∧ s.sp.toNat = 15 + 1) ∧
    (∃ s : State, s.sp.toNat ≤ 16 ∧ s.sp.toNat = 0) :=
  ⟨⟨{ State.reset with sp := 1 }, by decide⟩, ⟨{ State.reset with sp := 16 }, by decide⟩, ⟨State.reset, by decide⟩⟩

/-- An empty stack, one free entry, a full stack. -/
theorem witness_call : (∃ s : State, s.sp.toNat ≤ 16 ∧ s.sp.toNat < 16 ∧ s.sp.toNat = 0) ∧
    (∃ s : State, s.sp.toNat ≤ 16 ∧ s.sp.toNat < 16 ∧ s.sp.toNat = 15) ∧
    (∃ s : State, s.sp.toNat ≤ 16 ∧ s.sp.toNat = 16) :=
  ⟨⟨State.reset, by decide⟩, ⟨{ State.reset with sp := 15 }, by decide⟩, ⟨{ State.reset with sp := 16 }, by decide⟩⟩

theorem witness_nested_calls : State.reset.sp = 0 ∧ State.reset.fault = .none ∧ State.reset.pc = 0x200 ∧ 16 ≤ 16 := by
  decide

/-- A11 and A14: carry 1 and carry 0. -/
theorem witness_carry :
    (∃ s : State, 1 = (if (s.readV 1).toNat + (s.readV 2).toNat > 255 then 1 else 0)) ∧
    (∃ s : State, 0 = (if (s.readV 1).toNat + (s.readV 2).toNat > 255 then 1 else 0)) :=
  ⟨⟨regs [(1, 0xF0), (2, 0x20)], by decide⟩, ⟨regs [(1, 0x7F), (2, 0x80)], by decide⟩⟩

/-- A22 and A23: borrow, and equality without borrow; A37 and A38 for the reverse subtraction. -/
theorem witness_borrow :
    (∃ s : State, 0 = (if (s.readV 2).toNat > (s.readV 1).toNat then 0 else 1)) ∧
    (∃ s : State, 1 = (if (s.readV 2).toNat > (s.readV 1).toNat then 0 else 1)) ∧
    (∃ s : State, 0 = (if (s.readV 2).toNat < (s.readV 1).toNat then 0 else 1)) ∧
    (∃ s : State, 1 = (if (s.readV 2).toNat < (s.readV 1).toNat then 0 else 1)) :=
  ⟨⟨regs [(1, 0x10), (2, 0x20)], by decide⟩, ⟨regs [(1, 0x20), (2, 0x20)], by decide⟩,
   ⟨regs [(1, 0x20), (2, 0x10)], by decide⟩, ⟨regs [(1, 0x20), (2, 0x20)], by decide⟩⟩

/-- Both sides of each skip: equal and different registers, a pressed and a released key. -/
theorem witness_skips : State.reset.readV 3 = 0 ∧ State.reset.readV 3 ≠ 0x2A ∧
    State.reset.readV 1 = State.reset.readV 2 ∧ (regs [(1, 7)]).readV 1 ≠ (regs [(1, 7)]).readV 2 ∧
    loaded.keys.getLsbD ((loaded.readV 5).toNat % 16) = false ∧
    (inputs 1 0 loaded).keys.getLsbD (((inputs 1 0 loaded).readV 5).toNat % 16) = true := by decide

/-- Canonical RAM that lists something, and addresses inside and outside the bytes stored at the top of memory: of BCD
at I = 0xFFE, of a store of sixteen registers at I = 0xFF8. -/
theorem witness_store : loaded.mem.wf = true ∧ loaded.mem ≠ [] ∧
    (∀ k < 3, 0x001 % 4096 ≠ State.effAddr { loaded with i := 0xFFE } k % 4096) ∧
    (∀ k ≤ (0xF : Reg).toNat, 0x008 % 4096 ≠ State.effAddr { loaded with i := 0xFF8 } k % 4096) ∧
    (0xF : Reg).toNat ≤ (0xF : Reg).toNat := by decide

/-- Registers inside and above a loaded range that ends below VF. -/
theorem witness_load : (0x3 : Reg).toNat ≤ (0x3 : Reg).toNat ∧ (0x3 : Reg).toNat < (0x4 : Reg).toNat := by decide

/-- P6: FX55 with V0, V1 at 0x206, I = 0x208. -/
theorem witness_self_modifying : ∃ s t : State, s.mem.wf = true ∧ exec (.store 1) s = .next t ∧
    (0 : Reg).toNat ≤ (1 : Reg).toNat ∧ (1 : Reg).toNat ≤ (1 : Reg).toNat ∧
    (s.pc.toNat + 2) % 4096 = s.effAddr (0 : Reg).toNat % 4096 ∧
    (s.pc.toNat + 3) % 4096 = s.effAddr (1 : Reg).toNat % 4096 :=
  ⟨{ regs [(0, 0x63), (1, 0x07)] with pc := 0x206, i := 0x208 }, _, by decide, rfl, by decide, by decide, by decide,
    by decide⟩

/-- G4: glyph 0 over a lit cell; and over none. -/
theorem witness_collision :
    (∃ k < 2048, lit { State.reset with fb := 1 } 0 1 1 k ∧ ({ State.reset with fb := 1 } : State).fb.getLsbD k = true) ∧
    ¬ (∃ k < 2048, lit State.reset 0 1 1 k ∧ State.reset.fb.getLsbD k = true) := by
  refine ⟨⟨0, by decide, ⟨0, by decide, 0, by decide, ?_, by decide⟩, by decide +kernel⟩, ?_⟩
  · show BitVec.getLsbD _ _ = true
    decide +kernel
  rintro ⟨k, -, -, h⟩
  simp [State.reset] at h

/-- The coordinates after a first draw, with V0 and V1 as coordinates, and with VF put back. -/
theorem witness_draw_twice : (∃ t, exec (.drw 0 1 5) State.reset = .next t ∧
      State.readV { t with v := t.v } 0 = State.reset.readV 0 ∧ State.readV { t with v := t.v } 1 = State.reset.readV 1) ∧
    ∃ t, exec (.drw 0xF 0xF 5) { State.reset with fb := 1 } = .next t ∧
      State.readV { t with v := Vector.replicate 16 0 } 0xF = ({ State.reset with fb := 1 } : State).readV 0xF :=
  ⟨⟨_, rfl, by decide +kernel, by decide +kernel⟩, ⟨_, rfl, by decide +kernel⟩⟩

/-- K7; key 0 alone; all keys. -/
theorem witness_keys : (∀ k < 16, State.reset.keys.getLsbD k = false) ∧
    ((0x0001 : Keys).getLsbD 0 = true ∧ ∀ j < 16, 0 < j → (0x0001 : Keys).getLsbD j = false) ∧
    ((0xFFFF : Keys).getLsbD 15 = true ∧ ∀ j < 16, 15 < j → (0xFFFF : Keys).getLsbD j = false) := by decide

/-- CLS at 0x200 and an acknowledge in the same clock; the same for a sprite row that has a 1 bit. -/
theorem witness_redraw_clock :
    (∃ s : State, s.fault = .none ∧ decodeWord (wordAtPc s) = .instr .cls ∧
      s.events = Strobes.toEvents ⟨false, none, some (0, 0), false, true⟩) ∧
    (∃ s : State, s.fault = .none ∧ decodeWord (wordAtPc s) = .instr (.drw 0 0 1) ∧ spriteBit s 0 0 ∧
      s.events = Strobes.toEvents ⟨false, none, some (0, 0), false, true⟩) := by
  refine ⟨⟨{ bytes 0x200 [0x00, 0xE0] State.reset with events := [.redrawAck, .step 0 0] }, by decide⟩,
    ⟨{ bytes 0x200 [0xD0, 0x01] State.reset with events := [.redrawAck, .step 0 0] }, by decide, by decide, ?_, by decide⟩⟩
  show BitVec.getLsbD _ _ = true
  decide

theorem witness_fault_lines : State.reset.fault = .none ∧
    ({ State.reset with fault := .stackOverflow 0x2AA } : State).fault = .stackOverflow 0x2AA ∧
    ({ State.reset with fault := .stackUnderflow 0x2AA } : State).fault = .stackUnderflow 0x2AA := by decide

/-- E6: `Step` and `Tick` in one clock, FX07 at 0x200; and a clock with `rst` high. -/
theorem witness_strobes : (⟨true, none, some (0, 0), true, true⟩ : Strobes).rst = true ∧
    ∃ s : State, s.fault = .none ∧ decodeWord (wordAtPc s) = .instr (.ldFromDt 3) ∧
      s.events = Strobes.toEvents ⟨false, none, some (0, 0), true, false⟩ ∧ s.dt = 5 :=
  ⟨rfl, { bytes 0x200 [0xF3, 0x07] State.reset with events := [.step 0 0, .tick], dt := 5 }, by decide⟩

theorem witness_registers : ∃ t, exec (.addReg 1 2) State.reset = .next t ∧ ¬ mayWrite (.addReg 1 2) 3 :=
  ⟨_, rfl, by simp only [mayWrite]; decide⟩

theorem witness_framebuffer : ∃ t, transition (.step 0 0) { spin with fb := 1, mem := [(0x201, 0xE0)] } = .next t ∧
    t.fb ≠ ({ spin with fb := 1, mem := [(0x201, 0xE0)] } : State).fb :=
  ⟨_, rfl, by decide +kernel⟩

theorem witness_cls_writes : ∃ t, exec .cls { State.reset with fb := 1 } = .next t ∧
    t.fb ≠ ({ State.reset with fb := 1 } : State).fb := ⟨_, rfl, by decide +kernel⟩

theorem witness_redraw : ∃ t, transition .redrawAck { State.reset with redraw := true } = .next t ∧
    ({ State.reset with redraw := true } : State).redraw = true ∧ t.redraw = false := ⟨_, rfl, rfl, rfl⟩

theorem witness_stack : (∃ t, exec (.call 0x300) State.reset = .next t ∧ t.stack ≠ State.reset.stack ∧ t.sp ≠ State.reset.sp) ∧
    (∃ t, exec .ret { State.reset with sp := 1 } = .next t ∧ t.sp ≠ ({ State.reset with sp := 1 } : State).sp) :=
  ⟨⟨_, rfl, by decide, by decide⟩, ⟨_, rfl, by decide⟩⟩

theorem witness_memory : (∃ t, exec (.load 3) loaded = .next t) ∧ (∃ t, transition .tick loaded = .next t) :=
  ⟨⟨_, rfl⟩, ⟨_, rfl⟩⟩

theorem witness_faults : (∃ t, exec .ret State.reset = .next t ∧ t.fault ≠ State.reset.fault) ∧
    (∃ t, exec (.call 0x300) { State.reset with sp := 16 } = .next t ∧ t.fault ≠ State.reset.fault) :=
  ⟨⟨_, rfl, by decide⟩, ⟨_, rfl, by decide⟩⟩

theorem witness_inputs : ∃ t, exec (.addReg 1 2) State.reset = .next t ∧ readsKeys (.addReg 1 2) = false ∧
    readsRnd (.addReg 1 2) = false := ⟨_, rfl, rfl, rfl⟩

theorem witness_sound_timer : ∃ t, exec (.ldSt 3) State.reset = .next t := ⟨_, rfl⟩

theorem witness_self_jump : spin.ended := ⟨by decide, by decide⟩

end Sys2Proof.Tests
end

section
/-! PROOFS. What the readers see right after reset (10_state.md R48, 70_reset_and_hazards.md R260). -/

namespace Sys2Proof.Machine

/-- `FONT_DATA` is sixteen glyphs of five bytes (20_memory.md R66). -/
theorem fontData_length : Config.fontData.length = 80 := rfl

/-- The reset contents with `FONT_BASE` = 0 put in: the font in the first 80 bytes. -/
theorem resetByte_eq (a : Nat) : Config.resetByte a = if a < 80 then Config.fontData.getD a 0 else 0 := by
  have hfont : Config.resetByte a = Config.fontData.getD a 0 := by simp [Config.resetByte, Config.fontBase]
  split
  · exact hfont
  · next h => rw [hfont, List.getD_eq_default _ _ (by rw [fontData_length]; omega)]

theorem reset_memRead (a : Nat) :
    State.reset.memRead a = if a % 4096 < 80 then Config.fontData.getD (a % 4096) 0 else 0 :=
  resetByte_eq (a % 4096)

@[simp] theorem reset_readV (r : Reg) : State.reset.readV r = 0 := Vector.getElem_replicate ..

@[simp] theorem reset_stackEntry (k : BitVec 5) : State.reset.stackEntry k = 0 := Vector.getElem_replicate ..

/-- Settles O14: RAM is the reset contents of every byte, and the other pieces are the fields of `State.reset`. -/
theorem resetValues : Obligations.ResetValues := by
  have hram : ∀ a < 4096, State.reset.memRead a = if a < 80 then Config.fontData.getD a 0 else 0 := fun a ha => by
    rw [reset_memRead, Nat.mod_eq_of_lt ha]
  have hfb : ∀ k : Nat, State.reset.fb.getLsbD k = false := fun _ => BitVec.getLsbD_zero
  exact ⟨hram, fontData_length, rfl, rfl, reset_readV, rfl, rfl, reset_stackEntry, rfl, rfl, hfb, rfl, rfl⟩

end Sys2Proof.Machine
end

section
/-! PROOFS. The level outputs, and one clock in which an acknowledge and a `Step` coincide (10_state.md R47). -/

open Sys2Proof.Claims

namespace Sys2Proof.Machine

/-! ### One step of a run, and a `Step` event of a decoded word -/

/-- A run goes on from the state its first step answers. -/
theorem coreRun_succ_of_next {M : Host.Core} {s t : M.State} (h : M.step s = .next t) (n : Nat) :
    M.run (n + 1) s = M.run n t := by
  rw [Host.Core.run, h]

/-- `coreRun_succ_of_next` for this machine. -/
theorem run_succ_of_next {s t : State} (h : step s = .next t) (n : Nat) :
    Host.Core.run Sys2Proof.core (n + 1) s = Host.Core.run Sys2Proof.core n t :=
  coreRun_succ_of_next (M := Sys2Proof.core) h n

/-- The word the claims compute by arithmetic is the word the cycle fetches (20_memory.md R68). -/
theorem wordAtPc_eq_fetchWord (s : State) : wordAtPc s = s.fetchWord := by
  apply BitVec.eq_of_toNat_eq
  have hlo : (s.memRead (s.pc.toNat + 1)).toNat < 2 ^ 8 := BitVec.isLt _
  rw [wordAtPc, State.fetchWord, wordOfBytes, BitVec.toNat_append, ← Nat.shiftLeft_add_eq_or_of_lt hlo,
    Nat.shiftLeft_eq, BitVec.toNat_ofNat]
  omega

/-- With no fault latched, a `Step` event runs the instruction at `pc` on the sampled inputs (40_flow.md R120). -/
theorem stepEvent_of_decode {s : State} {i : Instr} (hf : s.fault = .none)
    (hd : decodeWord (wordAtPc s) = .instr i) (k : Keys) (r : Byte) : s.stepEvent k r = exec i (s.sample k r) := by
  rw [wordAtPc_eq_fetchWord] at hd
  obtain ⟨hne, -⟩ | ⟨-, j, hj, hexec⟩ | ⟨-, f, hu, -⟩ := stepEvent_cases s k r
  · exact absurd hf hne
  · obtain rfl : i = j := by simpa [hd] using hj
    exact hexec
  · simp [hd] at hu

/-! ### The instructions that set `REDRAW` (10_state.md R36) -/

/-- The drawing loop marks a toggled cell iff the sprite has a 1 bit (43_display.md R191). -/
theorem drawSprite_toggled (s : State) (x y : Reg) (n : Nibble) :
    (s.drawSprite x y n).toggled = true ↔ ∃ row < n.toNat, ∃ c < 8, spriteBit s row c :=
  (drawRows_toggled ..).trans (or_iff_right Bool.false_ne_true)

theorem exec_cls_redraw (s : State) : ∃ t, exec .cls s = .next t ∧ t.redraw = true ∧ t.events = s.events :=
  ⟨_, rfl, rfl, rfl⟩

theorem exec_drw_redraw (x y : Reg) (n : Nibble) (s : State) :
    ∃ t, exec (.drw x y n) s = .next t ∧ t.redraw = (s.redraw || (s.drawSprite x y n).toggled) ∧
      t.events = s.events :=
  ⟨_, rfl, rfl, rfl⟩

/-- The instruction sets `REDRAW` in this state: a CLS, or a DRW whose sprite has a 1 bit. -/
def SetsRedraw (s : State) (i : Instr) : Prop :=
  i = .cls ∨ ∃ x y n, i = .drw x y n ∧ ∃ row < n.toNat, ∃ c < 8, spriteBit s row c

theorem exec_setsRedraw {s : State} {i : Instr} (h : SetsRedraw s i) :
    ∃ t, exec i s = .next t ∧ t.redraw = true ∧ t.events = s.events := by
  obtain rfl | ⟨x, y, n, rfl, hbit⟩ := h
  · exact exec_cls_redraw s
  · obtain ⟨t, hexec, hredraw, hevents⟩ := exec_drw_redraw x y n s
    exact ⟨t, hexec, by rw [hredraw, (drawSprite_toggled ..).2 hbit, Bool.or_true], hevents⟩

/-! ### A clock with an acknowledge and a `Step` -/

/-- The acknowledge comes first, so the instruction at `pc` runs on the state with `REDRAW` already cleared
(60_exceptions.md R228). -/
theorem run_redrawAck_step {s : State} {i : Instr} {k : Keys} {r : Byte} (hf : s.fault = .none)
    (hd : decodeWord (wordAtPc s) = .instr i) (he : s.events = [.redrawAck, .step k r]) {t : State}
    (ht : exec i ((State.redrawAck { s with events := [] }).sample k r) = .next t) :
    Host.Core.run Sys2Proof.core 2 s = .next t := by
  have hack : step s = .next (State.redrawAck { s with events := [.step k r] }) := step_pending he
  have hstep : step (State.redrawAck { s with events := [.step k r] }) = .next t := by
    rw [step_pending (e := .step k r) (rest := []) rfl]
    exact (stepEvent_of_decode (s := State.redrawAck { s with events := [] }) hf hd k r).trans ht
  exact (run_succ_of_next hack 1).trans (run_succ_of_next hstep 0)

/-- A `REDRAW` set in the clock of an acknowledge wins over the clear (10_state.md R47 (b)). -/
theorem redraw_set_wins {s : State} {i : Instr} {k : Keys} {r : Byte} (hf : s.fault = .none)
    (hd : decodeWord (wordAtPc s) = .instr i) (hset : SetsRedraw s i)
    (he : s.events = [.redrawAck, .step k r]) :
    ∃ t, Host.Core.run Sys2Proof.core 2 s = .next t ∧ State.redraw t = true ∧ State.events t = [] := by
  have hset' : SetsRedraw ((State.redrawAck { s with events := [] }).sample k r) i := hset
  obtain ⟨t, hexec, hredraw, hevents⟩ := exec_setsRedraw hset'
  exact ⟨t, run_redrawAck_step hf hd he hexec, hredraw, hevents⟩

/-! ### The fault lines (10_state.md R47 (c)) -/

theorem faultLine_iff (s : State) : s.faultLine = true ↔ s.fault ≠ .none := decide_eq_true_iff

theorem faultCause_of_none {s : State} (h : s.fault = .none) : s.faultCause = 0 := by
  rw [State.faultCause, h]

theorem faultLines_of_stackOverflow {s : State} {a : Addr} (h : s.fault = .stackOverflow a) :
    s.faultCause = 1 ∧ s.faultPc = some a := by
  rw [State.faultCause, State.faultPc, h]; exact ⟨rfl, rfl⟩

theorem faultLines_of_stackUnderflow {s : State} {a : Addr} (h : s.fault = .stackUnderflow a) :
    s.faultCause = 2 ∧ s.faultPc = some a := by
  rw [State.faultCause, State.faultPc, h]; exact ⟨rfl, rfl⟩

/-- Settles O46: the read port, `redraw_requested` and the acknowledge are their definitions; in a coincident clock the
`Step` runs after the acknowledge and sets `REDRAW`; the fault lines by the cases of the latch. -/
theorem levelOutputsAndAcknowledge : Obligations.LevelOutputsAndAcknowledge := by
  refine ⟨fun _ _ => rfl, fun _ => ⟨rfl, rfl⟩, ?coincident, fun s => ⟨faultLine_iff s, faultCause_of_none,
    fun _ => faultLines_of_stackOverflow, fun _ => faultLines_of_stackUnderflow⟩⟩
  case coincident =>
    intro k r s hf hword he
    obtain hcls | ⟨x, y, n, hdrw, hbit⟩ := hword
    · exact redraw_set_wins hf hcls (.inl rfl) he
    · exact redraw_set_wins hf hdrw (.inr ⟨x, y, n, rfl, hbit⟩) he

end Sys2Proof.Machine
end

section
/-! PROOFS. The opcode map by fields (30_encoding.md R98): its three masks keep `opcode`, `opcode` and `n`, or `opcode`
and `nn`, and clear the other digits. So a row selects a word by the fields the decoder dispatches on (R95, R97). -/

open Sys2Proof.Claims

namespace Sys2Proof

/-! ### A word is made of its fields, and `&` works field by field (30_encoding.md R91, R92) -/

theorem formatNNN_fields (w : Word) : formatNNN (fieldOpcode w) (fieldNNN w) = w :=
  BitVec.extractLsb'_append_extractLsb' (w := 4)

theorem formatXNN_fields (w : Word) : formatXNN (fieldOpcode w) (fieldX w) (fieldNN w) = w := by
  have hhigh : (fieldOpcode w ++ fieldX w : Byte) = w.extractLsb' 8 8 :=
    BitVec.extractLsb'_append_extractLsb'_eq_extractLsb' rfl
  rw [formatXNN, hhigh]
  exact BitVec.extractLsb'_append_extractLsb' (w := 8)

theorem formatXYN_fields (w : Word) : formatXYN (fieldOpcode w) (fieldX w) (fieldY w) (fieldN w) = w := by
  have hlow : (fieldY w ++ fieldN w : Byte) = fieldNN w := BitVec.extractLsb'_append_extractLsb'_eq_extractLsb' rfl
  rw [formatXYN_eq, hlow, formatXNN_fields]

theorem formatNNN_and (op op' : Nibble) (nnn nnn' : Addr) :
    formatNNN op nnn &&& formatNNN op' nnn' = formatNNN (op &&& op') (nnn &&& nnn') :=
  BitVec.and_append

theorem formatXNN_and (op op' : Nibble) (x x' : Reg) (nn nn' : Byte) :
    formatXNN op x nn &&& formatXNN op' x' nn' = formatXNN (op &&& op') (x &&& x') (nn &&& nn') :=
  BitVec.and_append.trans (by rw [BitVec.and_append]; rfl)

theorem formatXYN_and (op op' : Nibble) (x x' y y' : Reg) (n n' : Nibble) :
    formatXYN op x y n &&& formatXYN op' x' y' n' = formatXYN (op &&& op') (x &&& x') (y &&& y') (n &&& n') :=
  BitVec.and_append.trans (by rw [BitVec.and_append, BitVec.and_append]; rfl)

/-! ### What each mask of the opcode map keeps -/

theorem nibble_and_F (n : Nibble) : n &&& 0xF#4 = n := BitVec.and_allOnes

theorem byte_and_FF (b : Byte) : b &&& 0xFF#8 = b := BitVec.and_allOnes

theorem and_F000 (w : Word) : w &&& 0xF000 = formatNNN (fieldOpcode w) 0 :=
  calc w &&& 0xF000
    _ = formatNNN (fieldOpcode w) (fieldNNN w) &&& formatNNN 0xF 0 := by rw [formatNNN_fields]; rfl
    _ = formatNNN (fieldOpcode w) 0 := by simp [formatNNN_and, nibble_and_F]

theorem and_F00F (w : Word) : w &&& 0xF00F = formatXYN (fieldOpcode w) 0 0 (fieldN w) :=
  calc w &&& 0xF00F
    _ = formatXYN (fieldOpcode w) (fieldX w) (fieldY w) (fieldN w) &&& formatXYN 0xF 0 0 0xF := by
      rw [formatXYN_fields]; rfl
    _ = formatXYN (fieldOpcode w) 0 0 (fieldN w) := by simp [formatXYN_and, nibble_and_F]

theorem and_F0FF (w : Word) : w &&& 0xF0FF = formatXNN (fieldOpcode w) 0 (fieldNN w) :=
  calc w &&& 0xF0FF
    _ = formatXNN (fieldOpcode w) (fieldX w) (fieldNN w) &&& formatXNN 0xF 0 0xFF := by rw [formatXNN_fields]; rfl
    _ = formatXNN (fieldOpcode w) 0 (fieldNN w) := by simp [formatXNN_and, nibble_and_F, byte_and_FF]

/-! ### The words of a row, by their fields -/

theorem selects_opcode_iff {w : Word} {op : Nibble} : w &&& 0xF000 = formatNNN op 0 ↔ fieldOpcode w = op := by
  rw [and_F000]
  constructor
  · intro h; simpa using congrArg fieldOpcode h
  · rintro rfl; rfl

theorem selects_n_iff {w : Word} {op n : Nibble} :
    w &&& 0xF00F = formatXYN op 0 0 n ↔ fieldOpcode w = op ∧ fieldN w = n := by
  rw [and_F00F]
  constructor
  · intro h; exact ⟨by simpa using congrArg fieldOpcode h, by simpa using congrArg fieldN h⟩
  · rintro ⟨rfl, rfl⟩; rfl

theorem selects_nn_iff {w : Word} {op : Nibble} {nn : Byte} :
    w &&& 0xF0FF = formatXNN op 0 nn ↔ fieldOpcode w = op ∧ fieldNN w = nn := by
  rw [and_F0FF]
  constructor
  · intro h; exact ⟨by simpa using congrArg fieldOpcode h, by simpa using congrArg fieldNN h⟩
  · rintro ⟨rfl, rfl⟩; rfl

/-! ### The operands of the claims are the field views (30_encoding.md R91) -/

@[simp] theorem xOf_eq_fieldX (w : Word) : xOf w = fieldX w := by
  rw [fieldX, BitVec.extractLsb', Nat.shiftRight_eq_div_pow]; rfl

@[simp] theorem yOf_eq_fieldY (w : Word) : yOf w = fieldY w := by
  rw [fieldY, BitVec.extractLsb', Nat.shiftRight_eq_div_pow]; rfl

@[simp] theorem nOf_eq_fieldN (w : Word) : nOf w = fieldN w := rfl

@[simp] theorem nnOf_eq_fieldNN (w : Word) : nnOf w = fieldNN w := rfl

@[simp] theorem nnnOf_eq_fieldNNN (w : Word) : nnnOf w = fieldNNN w := rfl

/-! ### From a row to its instruction -/

theorem rowIs_opcode (op : Nibble) {f : Word → Instr}
    (h : ∀ w, fieldOpcode w = op → decodeWord w = .instr (f w)) : RowIs (formatNNN op 0) 0xF000 f :=
  fun w hw => h w (selects_opcode_iff.1 hw)

theorem rowIs_n (op n : Nibble) {f : Word → Instr}
    (h : ∀ w, fieldOpcode w = op ∧ fieldN w = n → decodeWord w = .instr (f w)) : RowIs (formatXYN op 0 0 n) 0xF00F f :=
  fun w hw => h w (selects_n_iff.1 hw)

theorem rowIs_nn (op : Nibble) (nn : Byte) {f : Word → Instr}
    (h : ∀ w, fieldOpcode w = op ∧ fieldNN w = nn → decodeWord w = .instr (f w)) : RowIs (formatXNN op 0 nn) 0xF0FF f :=
  fun w hw => h w (selects_nn_iff.1 hw)

/-! ### From a decoded instruction to its row -/

theorem decodeFamily0_selects {w : Word} {i : Instr} (hop : fieldOpcode w = 0x0) (h : decodeFamily0 w = .instr i) :
    w &&& i.row.mask = i.row.pat := by
  unfold decodeFamily0 at h
  split at h <;> cases h <;> exact selects_nn_iff.2 ⟨hop, ‹_›⟩

theorem decodeFamily8_selects {w : Word} {i : Instr} (hop : fieldOpcode w = 0x8) (h : decodeFamily8 w = .instr i) :
    w &&& i.row.mask = i.row.pat := by
  unfold decodeFamily8 at h
  split at h <;> cases h <;> exact selects_n_iff.2 ⟨hop, ‹_›⟩

theorem decodeFamilyE_selects {w : Word} {i : Instr} (hop : fieldOpcode w = 0xE) (h : decodeFamilyE w = .instr i) :
    w &&& i.row.mask = i.row.pat := by
  unfold decodeFamilyE at h
  split at h <;> cases h <;> exact selects_nn_iff.2 ⟨hop, ‹_›⟩

theorem decodeFamilyF_selects {w : Word} {i : Instr} (hop : fieldOpcode w = 0xF) (h : decodeFamilyF w = .instr i) :
    w &&& i.row.mask = i.row.pat := by
  unfold decodeFamilyF at h
  split at h <;> cases h <;> exact selects_nn_iff.2 ⟨hop, ‹_›⟩

/-- Opcode 0xF is the one value the last arm of the decoder leaves (30_encoding.md R97). -/
theorem opcode_eq_F : ∀ op : Nibble,
    op ∉ [0x0, 0x1, 0x2, 0x3, 0x4, 0x5, 0x6, 0x7, 0x8, 0x9, 0xA, 0xB, 0xC, 0xD, 0xE] → op = 0xF := by
  decide

/-- A word that decodes to an instruction is selected by that instruction's row (30_encoding.md R98). -/
theorem decodeWord_selects {w : Word} {i : Instr} (h : decodeWord w = .instr i) : w &&& i.row.mask = i.row.pat := by
  unfold decodeWord at h
  split at h
  case h_1 hop => exact decodeFamily0_selects hop h
  case h_9 hop => exact decodeFamily8_selects hop h
  case h_15 hop => exact decodeFamilyE_selects hop h
  case h_16 => exact decodeFamilyF_selects (opcode_eq_F _ (by simp_all)) h
  all_goals
    obtain rfl := Decoded.instr.inj h
    exact selects_opcode_iff.2 ‹_›

theorem unknown_of_no_row {w : Word} (h : ∀ i : Instr, w &&& i.row.mask ≠ i.row.pat) :
    ∃ f, decodeWord w = .unknown f := by
  cases hd : decodeWord w with
  | instr i => exact absurd (decodeWord_selects hd) (h i)
  | unknown f => exact ⟨f, rfl⟩

/-- Settles O3: a row fixes the fields of its words that the decoder dispatches on, and these pick the row's arm; a word
that decodes to an instruction is selected by its row. -/
theorem everyRowDecodesToItsInstruction : Obligations.EveryRowDecodesToItsInstruction := by
  refine ⟨rowIs_nn 0x0 0xE0 ?_, rowIs_nn 0x0 0xEE ?_, rowIs_opcode 0x1 ?_, rowIs_opcode 0x2 ?_, rowIs_opcode 0x3 ?_,
    rowIs_opcode 0x4 ?_, rowIs_opcode 0x5 ?_, rowIs_opcode 0x6 ?_, rowIs_opcode 0x7 ?_,
    rowIs_n 0x8 0x0 ?_, rowIs_n 0x8 0x1 ?_, rowIs_n 0x8 0x2 ?_, rowIs_n 0x8 0x3 ?_, rowIs_n 0x8 0x4 ?_,
    rowIs_n 0x8 0x5 ?_, rowIs_n 0x8 0x6 ?_, rowIs_n 0x8 0x7 ?_, rowIs_n 0x8 0xE ?_,
    rowIs_opcode 0x9 ?_, rowIs_opcode 0xA ?_, rowIs_opcode 0xB ?_, rowIs_opcode 0xC ?_, rowIs_opcode 0xD ?_,
    rowIs_nn 0xE 0x9E ?_, rowIs_nn 0xE 0xA1 ?_, rowIs_nn 0xF 0x07 ?_, rowIs_nn 0xF 0x0A ?_, rowIs_nn 0xF 0x15 ?_,
    rowIs_nn 0xF 0x18 ?_, rowIs_nn 0xF 0x1E ?_, rowIs_nn 0xF 0x29 ?_, rowIs_nn 0xF 0x33 ?_, rowIs_nn 0xF 0x55 ?_,
    rowIs_nn 0xF 0x65 ?_, fun _ => unknown_of_no_row⟩
  all_goals
    intro w hfields
    simp [decodeWord, decodeFamily0, decodeFamily8, decodeFamilyE, decodeFamilyF, hfields]

end Sys2Proof
end

section
/-! PROOFS. The control-transfer instructions: RET and CALL on the stack, the jumps and the compare skips (40_flow.md
R122 to R129). -/

namespace Sys2Proof.Machine

/-! ### The entry array, indexed by a count below 16 (10_state.md R28, R29) -/

theorem stackIndex_toNat (k : BitVec 5) : (stackIndex k).toNat = k.toNat % 16 := by
  simp [stackIndex]

theorem stackEntry_eq_getElem (s : State) {c : BitVec 5} {k : Nat} (hk : k < 16) (hc : c.toNat = k) :
    s.stackEntry c = s.stack[k] := by
  simp only [State.stackEntry, stackIndex_toNat, hc, Nat.mod_eq_of_lt hk]

theorem push_getElem {s : State} (hroom : s.sp.toNat < 16) (a : Addr) {k : Nat} (hk : k < 16) :
    (s.push a).stack[k] = if k = s.sp.toNat then a else s.stack[k] := by
  simp only [State.push, Vector.getElem_set, stackIndex_toNat, Nat.mod_eq_of_lt hroom, eq_comm (a := k)]

theorem push_sp_toNat {s : State} (hroom : s.sp.toNat < 16) (a : Addr) : (s.push a).sp.toNat = s.sp.toNat + 1 := by
  rw [push_sp]; bv_omega

theorem pop_sp_toNat {s : State} (hone : 1 ≤ s.sp.toNat) : s.pop.sp.toNat = s.sp.toNat - 1 := by
  rw [pop_sp]; bv_omega

/-! ### RET and CALL, one equation per case of the stack pointer -/

theorem exec_ret_of_empty {s : State} (h : s.sp.toNat = 0) : exec .ret s = .next (s.raise .stackUnderflow) := by
  have hsp : s.sp = 0#5 := BitVec.eq_of_toNat_eq h
  rw [exec, execRet, if_pos hsp]

theorem exec_ret_of_nonempty {s : State} (h : 1 ≤ s.sp.toNat) :
    exec .ret s = .next (s.pop.setPc (s.pop.stackEntry s.pop.sp + 2#12)) := by
  have hsp : s.sp ≠ 0#5 := by bv_omega
  rw [exec, execRet, if_neg hsp]

theorem exec_call_of_full (nnn : Addr) {s : State} (h : s.sp.toNat = 16) :
    exec (.call nnn) s = .next (s.raise .stackOverflow) := by
  have hsp : s.sp = 16#5 := BitVec.eq_of_toNat_eq h
  rw [exec, execCall, if_pos hsp]

theorem exec_call_of_room (nnn : Addr) {s : State} (h : s.sp.toNat < 16) :
    exec (.call nnn) s = .next ((s.push s.pc).setPc nnn) := by
  have hsp : s.sp ≠ 16#5 := by bv_omega
  rw [exec, execCall, if_neg hsp]

/-- Settles O17: with an entry on the stack RET goes on after the entry at the decremented count; on an empty stack it
only raises. -/
theorem retPopsTheCallSite : Obligations.RetPopsTheCallSite := by
  intro s _
  refine ⟨fun hone => ⟨_, exec_ret_of_nonempty hone, pop_sp_toNat hone, fun k hk hsp => ?_, rfl, fun _ => rfl⟩,
    exec_ret_of_empty⟩
  have htop : s.pop.sp.toNat = k := by rw [pop_sp_toNat hone, hsp, Nat.add_sub_cancel]
  rw [setPc_pc, toNat_add_two, stackEntry_eq_getElem s.pop hk htop]
  rfl

/-- Settles O18: with room on the stack CALL pushes its own address and jumps; on a full stack it only raises. -/
theorem callPushesTheCallSite : Obligations.CallPushesTheCallSite := by
  intro nnn s _
  exact ⟨fun hroom => ⟨_, exec_call_of_room nnn hroom, push_sp_toNat hroom s.pc, rfl,
    fun _ => push_getElem hroom s.pc, rfl, fun _ => rfl⟩, exec_call_of_full nnn⟩

/-! ### Jumps and skips -/

/-- `zext_12` keeps the value of a byte (30_encoding.md R93). -/
theorem zext12_toNat (b : Byte) : (zext12 b).toNat = b.toNat :=
  BitVec.toNat_setWidth_of_le (by decide)

theorem add_zext12_toNat (a : Addr) (b : Byte) : (a + zext12 b).toNat = (a.toNat + b.toNat) % 4096 := by
  rw [BitVec.toNat_add, zext12_toNat]

/-- Settles O20: both jumps are one `setPc`, which writes only `pc`. -/
theorem jumpsSetPcOnly : Obligations.JumpsSetPcOnly := by
  intro nnn s
  exact ⟨⟨_, rfl, rfl, onlyPc_setPc s nnn⟩, ⟨_, rfl, add_zext12_toNat nnn (s.readV 0), onlyPc_setPc s _⟩⟩

/-- Settles O21: each compare skip is `skipIf` on a Boolean test that decides its condition. -/
theorem compareSkips : Obligations.CompareSkips := by
  intro x y nn s
  refine ⟨⟨_, rfl, skipIf_spec s ?seImm⟩, ⟨_, rfl, skipIf_spec s ?sneImm⟩, ⟨_, rfl, skipIf_spec s ?seReg⟩,
    ⟨_, rfl, skipIf_spec s ?sneReg⟩⟩
  case seImm | seReg => exact beq_iff_eq
  case sneImm | sneReg => exact bne_iff_ne

end Sys2Proof.Machine
end

section
/-! PROOFS. The load, arithmetic, logic, shift and random instructions (41_alu.md R140 to R155): a plain register write,
or the flag-first order of R146 with the flag and the result as numbers. -/

namespace Sys2Proof.Machine

/-! ### A register write followed by the advance -/

theorem writeV_advance_readV (s : State) (x : Reg) (val : Byte) : (s.writeV x val).advance.readV x = val := by
  rw [advance_readV, readV_writeV_same]

/-- The frame of the instructions that write one register and advance. -/
theorem writeV_advance_frame (s : State) (x : Reg) (val : Byte) :
    OnlyRegs (· = x) s (s.writeV x val).advance ∧ PcPlus2 s (s.writeV x val).advance :=
  ⟨onlyRegs_writeV_advance s x val, pcPlus2_of rfl⟩

/-- Settles O24: each of the three writes one register and advances. -/
theorem loadAndAddImmediate : Obligations.LoadAndAddImmediate := by
  intro x y nn s
  refine ⟨⟨_, rfl, writeV_advance_readV s x nn, writeV_advance_frame s x nn⟩,
    ⟨_, rfl, ?addImm, writeV_advance_frame s x _⟩, ⟨_, rfl, writeV_advance_readV s x _, writeV_advance_frame s x _⟩⟩
  case addImm => rw [writeV_advance_readV, BitVec.toNat_add]

/-- Settles O25: the value written is the bit vector operation, which acts on each bit. -/
theorem bitwiseLogic : Obligations.BitwiseLogic := by
  intro x y s
  refine ⟨⟨_, rfl, fun b => ?orReg, writeV_advance_frame s x _⟩, ⟨_, rfl, fun b => ?andReg, writeV_advance_frame s x _⟩,
    ⟨_, rfl, fun b => ?xorReg, writeV_advance_frame s x _⟩⟩
  case orReg => rw [writeV_advance_readV, BitVec.getLsbD_or]
  case andReg => rw [writeV_advance_readV, BitVec.getLsbD_and]
  case xorReg => rw [writeV_advance_readV, BitVec.getLsbD_xor]

theorem rndMod255_toNat (b : Byte) : (rndMod255 b).toNat = b.toNat % 255 := by
  rw [rndMod255, BitVec.toNat_ofNat]; omega

/-- Settles O31: the mask only clears bits of `rnd mod 255`, which is below 255. -/
theorem randomIsMaskedMod255 : Obligations.RandomIsMaskedMod255 := by
  intro x nn s
  have hval : ((s.writeV x (nn &&& rndMod255 s.rnd)).advance.readV x).toNat = nn.toNat &&& (s.rnd.toNat % 255) := by
    rw [writeV_advance_readV, BitVec.toNat_and, rndMod255_toNat]
  have hlt : nn.toNat &&& (s.rnd.toNat % 255) < 255 :=
    Nat.and_le_right.trans_lt (Nat.mod_lt _ (by decide))
  exact ⟨_, rfl, hval, hval.trans_lt hlt, writeV_advance_frame s x _⟩

/-! ### The flag-first order -/

/-- A flag-first instruction by numbers: with `c` the value of its flag and `op` its result on the values of the
operands, `VF` takes `c`, and the result reads `c` for each operand that is `VF` (41_alu.md R146). -/
theorem flagThenResult_spec (s : State) (x y : Reg) {flag result : Byte → Byte → Byte} {c : Nat} {op : Nat → Nat → Nat}
    (hflag : (flag (s.readV x) (s.readV y)).toNat = c)
    (hresult : ∀ a b, (result a b).toNat = op a.toNat b.toNat) :
    (x ≠ Reg.F → ((s.flagThenResult x y flag result).readV Reg.F).toNat = c) ∧
      ((s.flagThenResult x y flag result).readV x).toNat =
        op (if x = Reg.F then c else (s.readV x).toNat) (if y = Reg.F then c else (s.readV y).toNat) ∧
      OnlyRegs (fun r => r = x ∨ r = Reg.F) s (s.flagThenResult x y flag result) ∧
      PcPlus2 s (s.flagThenResult x y flag result) := by
  refine ⟨fun hx => ?vf, ?dest, onlyRegs_flagThenResult s x y flag result, pcPlus2_of rfl⟩
  case vf => rw [flagThenResult_readV, if_neg hx.symm, if_pos rfl, hflag]
  case dest => rw [flagThenResult_readV, if_pos rfl, hresult, apply_ite BitVec.toNat, apply_ite BitVec.toNat, hflag]

theorem sub_toNat (a b : Byte) : (a - b).toNat = (a.toNat + 256 - b.toNat) % 256 := by
  bv_omega

theorem shiftRight_one_toNat (a : Byte) : (a >>> 1).toNat = a.toNat / 2 := by
  rw [BitVec.toNat_ushiftRight, Nat.shiftRight_eq_div_pow, pow_one]

theorem shiftLeft_one_toNat (a : Byte) : (a <<< 1).toNat = 2 * a.toNat % 256 := by
  rw [BitVec.toNat_shiftLeft, Nat.shiftLeft_eq, pow_one, Nat.mul_comm]

/-- Settles O26: flag-first with the carry and the sum modulo 256. -/
theorem addWithCarryOut : Obligations.AddWithCarryOut := by
  intro x y s c hc
  exact ⟨_, rfl, flagThenResult_spec s x y (op := fun a b => (a + b) % 256)
    ((carryFlag_toNat _ _).trans hc.symm) BitVec.toNat_add⟩

/-- Settles O27: flag-first with the no-borrow flag and the difference modulo 256. -/
theorem subtractNoBorrowFlag : Obligations.SubtractNoBorrowFlag := by
  intro x y s b hb
  exact ⟨_, rfl, flagThenResult_spec s x y (op := fun a b => (a + 256 - b) % 256)
    ((subFlag_toNat _ _).trans hb.symm) sub_toNat⟩

/-- Settles O28: flag-first with the no-borrow flag of the exchanged operands and their difference. -/
theorem reverseSubtractNoBorrowFlag : Obligations.ReverseSubtractNoBorrowFlag := by
  intro x y s b hb
  exact ⟨_, rfl, flagThenResult_spec s x y (op := fun a b => (b + 256 - a) % 256)
    ((subnFlag_toNat _ _).trans hb.symm) fun a b => sub_toNat b a⟩

/-- Settles O29: flag-first with bit 0 and the halved value; where `x` is F the bit itself is halved, which leaves 0. -/
theorem shiftRight : Obligations.ShiftRight := by
  intro x s
  obtain ⟨hvf, hdest, hframe⟩ := flagThenResult_spec s x x (flag := fun vx _ => shrFlag vx) (op := fun a _ => a / 2)
    (shrFlag_toNat _) fun a _ => shiftRight_one_toNat a
  have hbit : (s.readV x).toNat % 2 / 2 = 0 := Nat.div_eq_of_lt (Nat.mod_lt _ (by decide))
  exact ⟨_, rfl, hvf, by rw [hdest, apply_ite (· / 2), hbit], hframe⟩

/-- Settles O30: flag-first with bit 7 and the doubled value modulo 256. -/
theorem shiftLeft : Obligations.ShiftLeft := by
  intro x s
  exact ⟨_, rfl, flagThenResult_spec s x x (op := fun a _ => 2 * a % 256) (shlFlag_toNat _)
    fun a _ => shiftLeft_one_toNat a⟩

end Sys2Proof.Machine
end

section
/-! PROOFS. The index-register and memory instructions (42_index_memory.md R170 to R175): a write of `I`, the three
digit writes of BCD, and a register range to or from memory followed by the advance of `I`. -/

namespace Sys2Proof.Machine

/-! ### Writes of `I` (42_index_memory.md R170 to R172) -/

/-- The frame of the instructions that write `I` and advance. -/
theorem setI_advance_frame (s : State) (a : Addr) :
    OnlyPc s { (s.setI a).advance with i := s.i } ∧ PcPlus2 s (s.setI a).advance :=
  ⟨onlyPc_setPc s _, pcPlus2_of rfl⟩

/-- The glyph address takes the whole byte, not its low nibble. -/
theorem glyphAddr_toNat (b : Byte) : (glyphAddr b).toNat = (Config.fontBase.toNat + 5 * b.toNat) % 4096 := by
  rw [glyphAddr, BitVec.toNat_add, BitVec.toNat_mul, zext12_toNat]
  exact Nat.add_mod_mod ..

/-- Settles O32: each of the three is one write of `I` followed by the advance. -/
theorem indexRegisterWrites : Obligations.IndexRegisterWrites := by
  intro x nnn s
  exact ⟨⟨_, rfl, rfl, setI_advance_frame s nnn⟩,
    ⟨_, rfl, add_zext12_toNat s.i (s.readV x), setI_advance_frame s _⟩,
    ⟨_, rfl, glyphAddr_toNat (s.readV x), setI_advance_frame s _⟩⟩

/-! ### The three digits of BCD (42_index_memory.md R173) -/

theorem hundreds_toNat (b : Byte) : (hundreds b).toNat = b.toNat / 100 := by
  rw [hundreds, BitVec.toNat_ofNat]; omega

theorem tens_toNat (b : Byte) : (tens b).toNat = b.toNat / 10 % 10 := by
  rw [tens, BitVec.toNat_ofNat]; omega

theorem ones_toNat (b : Byte) : (ones b).toNat = b.toNat % 10 := by
  rw [ones, BitVec.toNat_ofNat]; omega

/-- Offsets below 4096 from `I` give distinct bytes, whether or not the addresses wrap (42_index_memory.md R176). -/
theorem effAddr_mod_inj (s : State) {j k : Nat} (hj : j < 4096) (hk : k < 4096) :
    s.effAddr j % 4096 = s.effAddr k % 4096 ↔ j = k := by
  simp only [State.effAddr]; omega

/-- The three writes of BCD, without the advance. -/
def State.storeDigits (s : State) (b : Byte) : State :=
  ((s.memWrite (s.effAddr 0) (hundreds b)).memWrite (s.effAddr 1) (tens b)).memWrite (s.effAddr 2) (ones b)

theorem exec_bcd (x : Reg) (s : State) : exec (.bcd x) s = .next (s.storeDigits (s.readV x)).advance := rfl

/-- A byte read after the three writes, the last one looked at first. -/
theorem storeDigits_memRead {s : State} (h : s.mem.wf = true) (b : Byte) (a : Nat) :
    (s.storeDigits b).memRead a =
      if a % 4096 = s.effAddr 2 % 4096 then ones b else if a % 4096 = s.effAddr 1 % 4096 then tens b
      else if a % 4096 = s.effAddr 0 % 4096 then hundreds b else s.memRead a := by
  have h0 := memWrite_wf h (s.effAddr 0) (hundreds b)
  have h1 := memWrite_wf h0 (s.effAddr 1) (tens b)
  rw [State.storeDigits, memRead_memWrite h1, memRead_memWrite h0, memRead_memWrite h]

/-- Settles O33: the three places are distinct, so each keeps its digit, and no other byte is written. -/
theorem bcdStoresThreeDigits : Obligations.BcdStoresThreeDigits := by
  intro x s h
  have hread := storeDigits_memRead h (s.readV x)
  refine ⟨_, exec_bcd x s, ?hundreds, ?tens, ?ones, fun a ha => ?outside, rfl, pcPlus2_of rfl⟩
  case hundreds => rw [advance_memRead, hread]; simp [effAddr_mod_inj, hundreds_toNat]
  case tens => rw [advance_memRead, hread]; simp [effAddr_mod_inj, tens_toNat]
  case ones => rw [advance_memRead, hread, if_pos rfl, ones_toNat]
  case outside =>
    rw [advance_memRead, hread, if_neg (ha 2 (by decide)), if_neg (ha 1 (by decide)), if_neg (ha 0 (by decide))]

/-! ### A register range to and from memory (42_index_memory.md R174, R175) -/

theorem regOfNat_toNat (r : Reg) : regOfNat r.toNat = r := BitVec.ofNat_toNat ..

theorem bumpI_toNat (s : State) (x : Reg) : (s.bumpI x).i.toNat = (s.i.toNat + x.toNat + 1) % 4096 := by
  rw [State.bumpI, setI_i, BitVec.toNat_add, BitVec.toNat_ofNat, Nat.add_mod_mod, Nat.add_assoc]

/-- LD [I], Vx writes only RAM, `I` and `pc`. -/
theorem exec_store_eq (x : Reg) (s : State) :
    exec (.store x) s =
      .next { s with mem := (s.storeRegs (x.toNat + 1)).mem, i := (s.bumpI x).i, pc := s.pc + 2#12 } := by
  rw [exec, execStore, storeRegs_eq]; rfl

/-- LD Vx, [I] writes only general registers, `I` and `pc`. -/
theorem exec_load_eq (x : Reg) (s : State) :
    exec (.load x) s =
      .next { s with v := (s.loadRegs (x.toNat + 1)).v, i := (s.bumpI x).i, pc := s.pc + 2#12 } := by
  rw [exec, execLoad, loadRegs_eq]; rfl

/-- Settles O34: inside the range byte `I + r` is `V[r]`, outside it nothing is written, and `I` advances once. -/
theorem storeRegisterRange : Obligations.StoreRegisterRange := by
  intro x s h
  have hx : x.toNat + 1 ≤ 16 := x.isLt
  refine ⟨_, exec_store_eq x s, fun r hr => ?inside, fun a ha => ?outside, bumpI_toNat s x, rfl, pcPlus2_of rfl⟩
  case inside => exact (storeRegs_inside h hx (Nat.lt_succ_of_le hr)).trans (by rw [regOfNat_toNat])
  case outside => exact storeRegs_outside h fun k hk => ha k (Nat.le_of_lt_succ hk)

/-- Settles O35: up to `x` a register takes its byte, above `x` none is written, and `I` advances once. -/
theorem loadRegisterRange : Obligations.LoadRegisterRange := by
  intro x s
  have hread := loadRegs_readV s (n := x.toNat + 1) x.isLt
  refine ⟨_, exec_load_eq x s, fun r hr => ?inside, fun r hr => ?above, bumpI_toNat s x, fun _ => rfl, rfl,
    pcPlus2_of rfl⟩
  case inside => exact (hread r).trans (if_pos (Nat.lt_succ_of_le hr))
  case above => exact (hread r).trans (if_neg (Nat.not_lt_of_ge hr))

end Sys2Proof.Machine
end

section
/-! PROOFS. CLS and DRW (43_display.md R190 to R192): the drawing loop in the terms of the claims, then the state after
each of the two instructions. -/

open Sys2Proof.Claims

namespace Sys2Proof.Machine

/-- Settles O38: the all-zero framebuffer has no cell on, and past it and `REDRAW` CLS only advances `pc`. -/
theorem clearScreen : Obligations.ClearScreen := by
  intro s
  exact ⟨_, rfl, fun _ _ => BitVec.getLsbD_zero, rfl, onlyPc_setPc s _, pcPlus2_of rfl⟩

/-! ### The drawing loop of DRW (43_display.md R191, R192) -/

/-- The cells the claims call lit are those of the loop's closed form. -/
theorem spriteLit_iff_lit (s : State) (x y : Reg) (n : Nibble) (k : Nat) :
    SpriteLit s (s.readV x) (s.readV y) n.toNat k ↔ lit s x y n k := Iff.rfl

/-- A sprite has at most 15 rows, so none wraps onto another (43_display.md R193). -/
theorem spriteRows_le (n : Nibble) : n.toNat ≤ 32 := n.isLt.le.trans (by decide)

/-- A cell is on after the sprite iff exactly one of "it was on" and "it is lit" holds. -/
theorem drawSprite_cell (s : State) (x y : Reg) (n : Nibble) {k : Nat} (hk : k < 2048) :
    (s.drawSprite x y n).fb.getLsbD k = true ↔
      (s.fb.getLsbD k = true ∧ ¬ lit s x y n k) ∨ (s.fb.getLsbD k = false ∧ lit s x y n k) := by
  rw [State.drawSprite, drawRows_cell _ _ _ _ (spriteRows_le n) _ hk, ← spriteLit_iff_lit]
  cases s.fb.getLsbD k <;> simp

/-- The collision is a lit cell that was on. -/
theorem drawSprite_collision (s : State) (x y : Reg) (n : Nibble) :
    (s.drawSprite x y n).collision = true ↔ ∃ k < 2048, lit s x y n k ∧ s.fb.getLsbD k = true := by
  rw [State.drawSprite, drawRows_collision _ _ _ _ (spriteRows_le n), or_iff_right Bool.false_ne_true]
  constructor
  · rintro ⟨r, hr, c, hc, hbit, hon⟩
    exact ⟨_, spriteCell_lt .., ⟨r, hr, c, hc, hbit, rfl⟩, hon⟩
  · rintro ⟨_, -, ⟨r, hr, c, hc, hbit, rfl⟩, hon⟩
    exact ⟨r, hr, c, hc, hbit, hon⟩

/-! ### The state after DRW -/

/-- `VF` takes the collision, whichever registers hold the coordinates. -/
theorem exec_drw_vf {x y : Reg} {n : Nibble} {s t : State} (h : exec (.drw x y n) s = .next t) :
    t.readV Reg.F = flagByte (s.drawSprite x y n).collision := by
  cases h
  exact readV_writeV_same ..

/-- Settles O39: the framebuffer, `VF` and `REDRAW` are the three results of the drawing loop; past the framebuffer and
`REDRAW`, DRW writes `VF` and advances. -/
theorem drawXorsTheSprite : Obligations.DrawXorsTheSprite := by
  intro x y n s
  refine ⟨_, rfl, fun k hk => drawSprite_cell s x y n hk, fun hhit => ?hit, fun hmiss => ?miss, ?redraw,
    onlyRegs_writeV_advance s Reg.F _, pcPlus2_of rfl⟩
  case hit => rw [exec_drw_vf rfl, (drawSprite_collision s x y n).2 hhit]; rfl
  case miss => rw [exec_drw_vf rfl, Bool.eq_false_iff.2 (mt (drawSprite_collision s x y n).1 hmiss)]; rfl
  case redraw => exact Bool.or_eq_true_iff.trans (or_congr_right (drawSprite_toggled s x y n))

end Sys2Proof.Machine
end

section
/-! PROOFS. The keypad and timer instructions (44_keypad_timers.md R200 to R205): a skip on one key input, the scan for
the highest pressed key, and reads and writes of the timers. -/

namespace Sys2Proof.Machine

/-! ### LD Vx, K (44_keypad_timers.md R202) -/

theorem highestKey_none {s : State} (h : ∀ k < 16, s.keys.getLsbD k = false) : s.highestKey = none :=
  highestKeyBelow_none.2 h

/-- The pressed key with no pressed key above it is the one the scan finds. -/
theorem highestKey_of_pressed {s : State} {k : Nat} (hk : k < 16) (hpressed : s.keys.getLsbD k = true)
    (habove : ∀ j < 16, k < j → s.keys.getLsbD j = false) : ∃ m : Nibble, s.highestKey = some m ∧ m.toNat = k := by
  cases hm : s.highestKey with
  | none => simp [highestKeyBelow_none.1 hm k hk] at hpressed
  | some m =>
    obtain ⟨hm16, hmpressed, hmabove⟩ := highestKeyBelow_some (Nat.le_refl 16) hm
    have hle : ¬ k < m.toNat := fun hlt => by simp [habove _ hm16 hlt] at hmpressed
    have hge : ¬ m.toNat < k := fun hlt => by simp [hmabove k hk hlt] at hpressed
    exact ⟨m, rfl, by omega⟩

theorem exec_ldKey_none {s : State} (h : s.highestKey = none) (x : Reg) : exec (.ldKey x) s = .next s := by
  rw [exec, execLdKey, h]

theorem exec_ldKey_some {s : State} {m : Nibble} (h : s.highestKey = some m) (x : Reg) :
    exec (.ldKey x) s = .next (s.writeV x (m.setWidth 8)).advance := by
  rw [exec, execLdKey, h]

/-- Settles O42: the scan finds no key, and the state is answered as it was; or it finds the highest pressed one, which
is written to `V[x]`. -/
theorem waitForKey : Obligations.WaitForKey := by
  intro x s
  refine ⟨fun hnone => exec_ldKey_none (highestKey_none hnone) x, fun k hk hpressed habove => ?pressed⟩
  case pressed =>
    obtain ⟨m, hm, rfl⟩ := highestKey_of_pressed hk hpressed habove
    refine ⟨_, exec_ldKey_some hm x, ?value, writeV_advance_frame s x _⟩
    case value => rw [writeV_advance_readV, BitVec.toNat_setWidth_of_le (by decide)]

/-! ### SKP and SKNP (44_keypad_timers.md R200, R201) -/

theorem keyIndex_toNat (b : Byte) : (keyIndex b).toNat = b.toNat % 16 := rfl

/-- Settles O41: both are `skipIf` on the key input that the low nibble of `V[x]` names, as it is or negated. -/
theorem keySkips : Obligations.KeySkips := by
  intro x s
  refine ⟨⟨_, rfl, skipIf_spec s ?skp⟩, ⟨_, rfl, skipIf_spec s ?sknp⟩⟩
  case skp => rw [State.key, keyIndex_toNat]
  case sknp => rw [State.key, keyIndex_toNat, Bool.not_eq_true']

/-! ### The timers (44_keypad_timers.md R203 to R205) -/

/-- The frame of LD DT, Vx. -/
theorem setDt_advance_frame (s : State) (val : Byte) :
    OnlyPc s { (s.setDt val).advance with dt := s.dt } ∧ PcPlus2 s (s.setDt val).advance :=
  ⟨onlyPc_setPc s _, pcPlus2_of rfl⟩

/-- The frame of LD ST, Vx: no output is emitted. -/
theorem setSt_advance_frame (s : State) (val : Byte) :
    OnlyPc s { (s.setSt val).advance with st := s.st } ∧ PcPlus2 s (s.setSt val).advance :=
  ⟨onlyPc_setPc s _, pcPlus2_of rfl⟩

/-- Settles O43: one register write with the value of `DT`, and one write of each timer, each followed by the advance. -/
theorem timerAccess : Obligations.TimerAccess := by
  intro x s
  exact ⟨⟨_, rfl, writeV_advance_readV s x s.dt, writeV_advance_frame s x s.dt⟩,
    ⟨_, rfl, rfl, setDt_advance_frame s _⟩, ⟨_, rfl, rfl, setSt_advance_frame s _⟩⟩

end Sys2Proof.Machine
end

section
/-! PROOFS. The soft failure, the two stack faults, the faulted state and `Tick` (60_exceptions.md R220 to R241). -/

open Sys2Proof.Claims

namespace Sys2Proof.Machine

/-! ### `Tick`, field by field (60_exceptions.md R240) -/

/-- A countdown that stops at 0 is the truncated subtraction. -/
theorem countdown_toNat (b : Byte) : (if b = 0#8 then 0#8 else b - 1#8).toNat = b.toNat - 1 := by
  split
  · simp [*]
  · bv_omega

theorem tick_dt_toNat (s : State) : s.tick.dt.toNat = s.dt.toNat - 1 := by
  rw [tick_eq]; exact countdown_toNat s.dt

theorem tick_st_toNat (s : State) : s.tick.st.toNat = s.st.toNat - 1 := by
  rw [tick_eq]; exact countdown_toNat s.st

theorem tick_outputs (s : State) : s.tick.outputs = if s.st = 1 then .tone :: s.outputs else s.outputs := by
  rw [tick_eq]; rfl

@[simp] theorem tick_fault (s : State) : s.tick.fault = s.fault := by rw [tick_eq]

/-- `Tick` writes `DT`, `ST` and the output alone. -/
theorem tick_frame (s : State) :
    s.tick = { s with dt := s.tick.dt, st := s.tick.st, outputs := s.tick.outputs } := by
  rw [tick_eq]

/-- `Tick` neither reads nor writes the latch. -/
theorem tick_with_fault (s : State) (f : FaultLatch) :
    ({ s with fault := f } : State).tick = { s.tick with fault := f } := by
  rw [tick_eq, tick_eq]

/-- `Tick` neither reads nor writes the pending events. -/
theorem tick_with_events (s : State) (later : List Event) :
    ({ s with events := later } : State).tick = { s.tick with events := later } := by
  rw [tick_eq, tick_eq]

/-- Settles O44: the two timers and the output of one `Tick`, and its frame. -/
theorem tickCountsDown : Obligations.TickCountsDown := by
  intro s
  exact ⟨s.tick, rfl, tick_dt_toNat s, tick_st_toNat s, tick_outputs s, tick_frame s⟩

/-! ### A countdown over many ticks (60_exceptions.md R241) -/

/-- What `n` ticks do to the sound timer and to the outputs: from `s` to `t`, `ST` has gone down by `n`, stopping at 0,
and one `Tone` has been emitted iff it reached 0 on the way. -/
def CountedDown (n : Nat) (s t : State) : Prop :=
  t.st.toNat = s.st.toNat - n ∧
    t.outputs = if 1 ≤ s.st.toNat ∧ s.st.toNat ≤ n then .tone :: s.outputs else s.outputs

theorem countedDown_zero (s : State) : CountedDown 0 s s :=
  ⟨rfl, (if_neg (by omega)).symm⟩

/-- A first tick from `ST = 1` emits the `Tone` and leaves none to the rest of the countdown; any other first tick is
silent and leaves it to the rest. -/
theorem countedDown_succ {n : Nat} {s t : State} (h : CountedDown n s.tick t) : CountedDown (n + 1) s t := by
  obtain ⟨hst, hout⟩ := h
  rw [tick_st_toNat] at hst hout
  rw [tick_outputs] at hout
  refine ⟨by omega, hout.trans ?_⟩
  by_cases hone : s.st = 1
  · simp [hone]
  · have hne : s.st.toNat ≠ 1 := fun h1 => hone (BitVec.eq_of_toNat_eq h1)
    have hcond : (1 ≤ s.st.toNat - 1 ∧ s.st.toNat - 1 ≤ n) ↔ (1 ≤ s.st.toNat ∧ s.st.toNat ≤ n + 1) := by omega
    simp only [if_neg hone, hcond]

/-- One step of a run with a tick pending: the tick, with the later events still to come. -/
theorem step_tick (s : State) (later : List Event) :
    step { s with events := .tick :: later } = .next { s.tick with events := later } :=
  (step_pending (e := .tick) (rest := later) rfl).trans (congrArg Host.Outcome.next (tick_with_events s later))

/-- A run whose first `n` pending events are ticks counts down `n` times, whatever else the state holds. -/
theorem run_ticks (s : State) (n : Nat) (rest : List Event) :
    ∃ t, Host.Core.run Sys2Proof.core n { s with events := List.replicate n .tick ++ rest } = .next t ∧
      State.events t = rest ∧ CountedDown n s t := by
  induction n generalizing s with
  | zero => exact ⟨_, rfl, rfl, countedDown_zero s⟩
  | succ n ih =>
    obtain ⟨t, hrun, hrest, hcount⟩ := ih s.tick
    exact ⟨t, (run_succ_of_next (step_tick s _) n).trans hrun, hrest, countedDown_succ hcount⟩

/-- Settles O45: by induction on the number of ticks; LD ST, Vx and `Reset` do not write the outputs. -/
theorem toneFiresOncePerCountdown : Obligations.ToneFiresOncePerCountdown := by
  refine ⟨fun s n rest => ?ticks, fun _ _ => ⟨_, rfl, rfl⟩, fun _ => ⟨_, rfl, rfl⟩⟩
  case ticks =>
    obtain ⟨t, hrun, hrest, hst, hout⟩ := run_ticks s n rest
    exact ⟨t, hrun, by rw [← hst, BitVec.ofNat_toNat, BitVec.setWidth_eq], hrest, hout⟩

/-! ### The soft failure (60_exceptions.md R220) -/

/-- With no fault latched, a `Step` event on an unknown word samples its inputs and takes the soft failure. -/
theorem stepEvent_of_unknown {s : State} {f : UnknownFamily} (hf : s.fault = .none)
    (hd : decodeWord (wordAtPc s) = .unknown f) (k : Keys) (r : Byte) :
    s.stepEvent k r = .next ((s.sample k r).unknownInstr (wordAtPc s)) := by
  rw [wordAtPc_eq_fetchWord] at hd ⊢
  obtain ⟨hne, -⟩ | ⟨-, i, hi, -⟩ | ⟨-, -, -, hstep⟩ := stepEvent_cases s k r
  · exact absurd hf hne
  · simp [hd] at hi
  · exact hstep

/-- Settles O8: the soft failure emits one output and advances `pc`. -/
theorem unknownWordIsSkippedWithDiagnostic : Obligations.UnknownWordIsSkippedWithDiagnostic := by
  intro s k r f hf hd
  exact ⟨_, stepEvent_of_unknown hf hd k r, rfl, pcPlus2_of rfl⟩

/-! ### The stack faults (60_exceptions.md R224) -/

/-- Settles O19: on a full stack CALL only raises, on an empty one RET only raises; the fault lines show the latch. -/
theorem stackFaultsLatchAndChangeNothingElse : Obligations.StackFaultsLatchAndChangeNothingElse := by
  refine ⟨fun nnn s hfull => ⟨_, exec_call_of_full nnn hfull, rfl, ?overflowLine, faultLines_of_stackOverflow rfl⟩,
    fun s hempty => ⟨_, exec_ret_of_empty hempty, rfl, ?underflowLine, faultLines_of_stackUnderflow rfl⟩⟩
  case overflowLine | underflowLine => exact (faultLine_iff _).2 nofun

/-! ### The faulted state (60_exceptions.md R226) -/

theorem stepEvent_of_faulted {s : State} (h : s.fault ≠ .none) (k : Keys) (r : Byte) : s.stepEvent k r = .next s :=
  if_neg h

/-- A latched fault outlives every event but `Reset`. -/
theorem transition_keeps_latched_fault {s t : State} (h : s.fault ≠ .none) {e : Event} (he : e ≠ .reset)
    (ht : transition e s = .next t) : t.fault = s.fault := by
  cases e with
  | reset => exact absurd rfl he
  | load a b => cases ht; rfl
  | step k r => cases (stepEvent_of_faulted h k r).symm.trans ht; rfl
  | tick => cases ht; exact tick_fault s
  | redrawAck => cases ht; rfl

/-- Settles O9: a faulted `Step` answers its own state, `Tick` commutes with the latch, and the latch outlives every
event but `Reset`. -/
theorem faultedStateIsFrozen : Obligations.FaultedStateIsFrozen := by
  intro s h
  refine ⟨stepEvent_of_faulted h, ⟨_, rfl, ?tick⟩, rfl, fun _ => rfl, ⟨_, rfl, rfl⟩,
    fun e t ht he => transition_keeps_latched_fault h he ht⟩
  case tick =>
    exact congrArg Host.Outcome.next (tick_with_fault { s with fault := .none } s.fault)

end Sys2Proof.Machine
end

section
/-! PROOFS. The `Reset` event from any state (70_reset_and_hazards.md R260). -/

namespace Sys2Proof.Machine

theorem transition_reset (s : State) : transition .reset s = .next s.doReset := rfl

@[simp] theorem doReset_outputs (s : State) : s.doReset.outputs = s.outputs := rfl

/-! What the readers see after the event is what they see in `State.reset`: nothing of `s` reaches them. -/

@[simp] theorem doReset_memRead (s : State) (a : Nat) : s.doReset.memRead a = State.reset.memRead a := rfl

@[simp] theorem doReset_readV (s : State) (r : Reg) : s.doReset.readV r = State.reset.readV r := rfl

@[simp] theorem doReset_stackEntry (s : State) (k : BitVec 5) : s.doReset.stackEntry k = State.reset.stackEntry k := rfl

/-- Settles O15: the event answers `doReset`, whose readers are those of the reset state; the remaining pieces are
fields that `doReset` takes from `State.reset`, and the outputs are those of `s`. -/
theorem resetEventFromAnyState : Obligations.ResetEventFromAnyState := by
  intro s
  have hram (a : Nat) :
      s.doReset.memRead a = if a % 4096 < 80 then Config.fontData.getD (a % 4096) 0 else 0 :=
    (doReset_memRead s a).trans (reset_memRead a)
  have hregs (r : Reg) : s.doReset.readV r = 0 := (doReset_readV s r).trans (reset_readV r)
  have hstack (k : BitVec 5) : s.doReset.stackEntry k = 0 := (doReset_stackEntry s k).trans (reset_stackEntry k)
  exact ⟨s.doReset, transition_reset s, hram, rfl, hregs, rfl, rfl, hstack, rfl, rfl, rfl, rfl, rfl,
    doReset_outputs s⟩

end Sys2Proof.Machine
end

section
/-! PROOFS. The round trip of the encoding, the exclusive rows of the opcode table, and the unknown words of each
family (30_encoding.md R97 to R99). -/

open Sys2Proof.Claims

namespace Sys2Proof

/-- Settles O1: the ten words are decoded by evaluation. -/
theorem decodeSampleWords : Obligations.DecodeSampleWords :=
  ⟨rfl, rfl, rfl, rfl, rfl, rfl, rfl, rfl, rfl, rfl⟩

/-! ### The round trip (30_encoding.md R97, R98) -/

/-- The round trips of Laws/PerInstr.lean, put together. -/
theorem decodeWord_encode (i : Instr) : decodeWord (encode i) = .instr i := by
  cases i with
  | cls => exact Laws.RoundTrip.cls
  | ret => exact Laws.RoundTrip.ret
  | jmp nnn => exact Laws.RoundTrip.jmp nnn
  | call nnn => exact Laws.RoundTrip.call nnn
  | seImm x nn => exact Laws.RoundTrip.seImm x nn
  | sneImm x nn => exact Laws.RoundTrip.sneImm x nn
  | seReg x y => exact Laws.RoundTrip.seReg x y
  | ldImm x nn => exact Laws.RoundTrip.ldImm x nn
  | addImm x nn => exact Laws.RoundTrip.addImm x nn
  | ldReg x y => exact Laws.RoundTrip.ldReg x y
  | orReg x y => exact Laws.RoundTrip.orReg x y
  | andReg x y => exact Laws.RoundTrip.andReg x y
  | xorReg x y => exact Laws.RoundTrip.xorReg x y
  | addReg x y => exact Laws.RoundTrip.addReg x y
  | sub x y => exact Laws.RoundTrip.sub x y
  | shr x => exact Laws.RoundTrip.shr x
  | subn x y => exact Laws.RoundTrip.subn x y
  | shl x => exact Laws.RoundTrip.shl x
  | sneReg x y => exact Laws.RoundTrip.sneReg x y
  | ldI nnn => exact Laws.RoundTrip.ldI nnn
  | jmpV0 nnn => exact Laws.RoundTrip.jmpV0 nnn
  | rnd x nn => exact Laws.RoundTrip.rnd x nn
  | drw x y n => exact Laws.RoundTrip.drw x y n
  | skp x => exact Laws.RoundTrip.skp x
  | sknp x => exact Laws.RoundTrip.sknp x
  | ldFromDt x => exact Laws.RoundTrip.ldFromDt x
  | ldKey x => exact Laws.RoundTrip.ldKey x
  | ldDt x => exact Laws.RoundTrip.ldDt x
  | ldSt x => exact Laws.RoundTrip.ldSt x
  | addI x => exact Laws.RoundTrip.addI x
  | ldFont x => exact Laws.RoundTrip.ldFont x
  | bcd x => exact Laws.RoundTrip.bcd x
  | store x => exact Laws.RoundTrip.store x
  | load x => exact Laws.RoundTrip.load x

/-- The decoder on the two bytes of a word, as the hardware stores them, and whatever follows (30_encoding.md R90). -/
theorem decode_bytes (w : Word) (rest : List Byte) :
    decode ([highByte w, lowByte w] ++ rest) = some (decodeWord w, rest) := by
  simp only [List.cons_append, List.nil_append, decode, wordOfBytes_bytes]

/-- Settles O2: the round trip of each word, and the two bytes of a word make it up again. -/
theorem decodeEncodeAgree : Obligations.DecodeEncodeAgree := by
  refine ⟨decodeWord_encode, fun i rest => ?bytes⟩
  case bytes => rw [encodeBytes, decode_bytes, decodeWord_encode]

/-! ### The rows are exclusive (30_encoding.md R98) -/

theorem row_mem_opcodeTable (i : Instr) : i.row ∈ opcodeTable := by
  cases i <;> simp [opcodeTable, rowSamples, Instr.row]

theorem selects_iff {r : OpcodeRow} {w : Word} : r.selects w = true ↔ w &&& r.mask = r.pat :=
  decide_eq_true_iff

/-- A word that a row selects decodes to an instruction of that row: O3 says so row by row, and for each `i` the one
conjunct with the mask and the match of `i.row` applies. -/
theorem decodeWord_of_selects {i : Instr} {w : Word} (h : i.row.selects w = true) :
    ∃ j, decodeWord w = .instr j ∧ j.row = i.row := by
  rw [selects_iff] at h
  obtain ⟨hcls, hret, hjmp, hcall, hseImm, hsneImm, hseReg, hldImm, haddImm, hldReg, horReg, handReg, hxorReg, haddReg,
    hsub, hshr, hsubn, hshl, hsneReg, hldI, hjmpV0, hrnd, hdrw, hskp, hsknp, hldFromDt, hldKey, hldDt, hldSt, haddI,
    hldFont, hbcd, hstore, hload, -⟩ := everyRowDecodesToItsInstruction
  cases i <;> exact ⟨_, ‹RowIs _ _ _› w h, by rfl⟩

theorem decodeWord_of_table_selects {r : OpcodeRow} (hr : r ∈ opcodeTable) {w : Word} (h : r.selects w = true) :
    ∃ j, decodeWord w = .instr j ∧ j.row = r := by
  obtain ⟨i, -, rfl⟩ := List.mem_map.1 hr
  exact decodeWord_of_selects h

theorem wordIsInstr_iff {w : Word} : wordIsInstr w = true ↔ ∃ r ∈ opcodeTable, r.selects w = true :=
  List.any_eq_true

/-- A word is an instruction of the table iff the decoder makes one of it. -/
theorem wordIsInstr_iff_decodeWord {w : Word} : wordIsInstr w = true ↔ ∃ i, decodeWord w = .instr i := by
  rw [wordIsInstr_iff]
  constructor
  · rintro ⟨r, hr, h⟩
    obtain ⟨j, hj, -⟩ := decodeWord_of_table_selects hr h
    exact ⟨j, hj⟩
  · rintro ⟨i, hi⟩
    exact ⟨i.row, row_mem_opcodeTable i, selects_iff.2 (decodeWord_selects hi)⟩

theorem unknown_iff_not_instr {d : Decoded} : (∃ f, d = .unknown f) ↔ ¬ ∃ i, d = .instr i := by
  cases d <;> simp

/-- Settles O4: the instruction a word decodes to has the row of every table row that selects the word, so there is at
most one. -/
theorem opcodeTableRowsAreExclusive : Obligations.OpcodeTableRowsAreExclusive := by
  refine ⟨rfl, fun w i hi => ⟨row_mem_opcodeTable i, selects_iff.2 (decodeWord_selects hi)⟩,
    fun r hr r' hr' w h h' => ?exclusive, fun w => ?unknown⟩
  case exclusive =>
    obtain ⟨i, hi, rfl⟩ := decodeWord_of_table_selects hr h
    obtain ⟨j, hj, rfl⟩ := decodeWord_of_table_selects hr' h'
    rw [Decoded.instr.inj (hi.symm.trans hj)]
  case unknown => rw [unknown_iff_not_instr, ← wordIsInstr_iff_decodeWord, Bool.not_eq_true]

/-! ### The fields a word is dispatched on, as numbers (30_encoding.md R91) -/

theorem fieldOpcode_eq_iff {w : Word} {op : Nibble} : fieldOpcode w = op ↔ w.toNat / 4096 = op.toNat := by
  have h : (fieldOpcode w).toNat = w.toNat / 4096 := by
    rw [fieldOpcode, BitVec.extractLsb'_toNat, Nat.shiftRight_eq_div_pow]
    omega
  rw [← BitVec.toNat_inj, h]

theorem fieldNN_mem_iff {w : Word} {l : List Byte} : fieldNN w ∈ l ↔ w.toNat % 256 ∈ l.map BitVec.toNat :=
  (List.mem_map_of_injective fun _ _ => BitVec.eq_of_toNat_eq).symm

theorem fieldN_mem_iff {w : Word} {l : List Nibble} : fieldN w ∈ l ↔ w.toNat % 16 ∈ l.map BitVec.toNat :=
  (List.mem_map_of_injective fun _ _ => BitVec.eq_of_toNat_eq).symm

/-! ### The unknown words (30_encoding.md R99) -/

theorem decodeFamily0_unknown_iff {w : Word} {f : UnknownFamily} :
    decodeFamily0 w = .unknown f ↔ f = .family0 ∧ fieldNN w ∉ [0xE0, 0xEE] := by
  unfold decodeFamily0
  split <;> simp_all [eq_comm]

/-- The digits family 8 leaves (30_encoding.md R99). -/
theorem n_not_in_family8_iff : ∀ n : Nibble,
    n ∈ [0x8, 0x9, 0xA, 0xB, 0xC, 0xD, 0xF] ↔ n ∉ [0x0, 0x1, 0x2, 0x3, 0x4, 0x5, 0x6, 0x7, 0xE] := by
  decide

theorem decodeFamily8_unknown_iff {w : Word} {f : UnknownFamily} :
    decodeFamily8 w = .unknown f ↔ f = .family8 ∧ fieldN w ∈ [0x8, 0x9, 0xA, 0xB, 0xC, 0xD, 0xF] := by
  rw [n_not_in_family8_iff]
  unfold decodeFamily8
  split <;> simp_all [eq_comm]

theorem decodeFamilyE_unknown_iff {w : Word} {f : UnknownFamily} :
    decodeFamilyE w = .unknown f ↔ f = .familyE ∧ fieldNN w ∉ [0x9E, 0xA1] := by
  unfold decodeFamilyE
  split <;> simp_all [eq_comm]

theorem decodeFamilyF_unknown_iff {w : Word} {f : UnknownFamily} :
    decodeFamilyF w = .unknown f ↔
      f = .familyF ∧ fieldNN w ∉ [0x07, 0x0A, 0x15, 0x18, 0x1E, 0x29, 0x33, 0x55, 0x65] := by
  unfold decodeFamilyF
  split <;> simp_all [eq_comm]

/-- Only the families 0, 8, E and F reject words. -/
theorem decodeWord_unknown_iff {w : Word} {f : UnknownFamily} :
    decodeWord w = .unknown f ↔
      (fieldOpcode w = 0x0 ∧ decodeFamily0 w = .unknown f) ∨ (fieldOpcode w = 0x8 ∧ decodeFamily8 w = .unknown f) ∨
      (fieldOpcode w = 0xE ∧ decodeFamilyE w = .unknown f) ∨ (fieldOpcode w = 0xF ∧ decodeFamilyF w = .unknown f) := by
  unfold decodeWord
  split
  case h_16 =>
    have hop := opcode_eq_F (fieldOpcode w) (by simp_all)
    simp [hop]
  all_goals simp [*]

/-- Settles O5: the family of an unknown word is the one its opcode selects, and each family rejects the sub-opcodes
it has no arm for; the fields are then read as numbers. -/
theorem unknownWordsByFamily : Obligations.UnknownWordsByFamily := by
  intro w
  simp only [decodeWord_unknown_iff, decodeFamily0_unknown_iff, decodeFamily8_unknown_iff, decodeFamilyE_unknown_iff,
    decodeFamilyF_unknown_iff, fieldOpcode_eq_iff, fieldNN_mem_iff, fieldN_mem_iff]
  simp

end Sys2Proof
end

section
/-! PROOFS. What an instruction can do, said once: every instruction answers a next state, by one of the effects of
`Effect`. The whole-machine rules and the invariant (10_state.md R49) are read off it. -/

open Sys2Proof.Claims

namespace Sys2Proof.Machine

/-- From `s`, instruction `i` can leave the state behind. One constructor per kind of write: what the rules of spec/
write together stands together, and an effect names its instruction where a rule about all instructions does. -/
inductive Effect (s : State) : Instr → State → Prop
  /-- the jumps and the skips (40_flow.md R123, R125 to R129; 44_keypad_timers.md R200, R201) -/
  | pc {i : Instr} (a : Addr) : Effect s i (s.setPc a)
  /-- LD Vx, K with no key pressed (44_keypad_timers.md R202) -/
  | waits {x : Reg} : Effect s (.ldKey x) s
  /-- one register of 10_state.md R22's table -/
  | reg {i : Instr} {x : Reg} (val : Byte) (hx : mayWrite i x) : Effect s i (s.writeV x val).advance
  /-- the flag-first order (41_alu.md R146) -/
  | flag {i : Instr} {x : Reg} (y : Reg) (f g : Byte → Byte → Byte) (hx : mayWrite i x) (hF : mayWrite i Reg.F) :
      Effect s i (s.flagThenResult x y f g)
  /-- the writes of `I` alone (42_index_memory.md R170 to R172) -/
  | index {i : Instr} (a : Addr) : Effect s i (s.setI a).advance
  /-- LD DT, Vx (44_keypad_timers.md R204) -/
  | delay {i : Instr} (val : Byte) : Effect s i (s.setDt val).advance
  /-- LD ST, Vx (44_keypad_timers.md R205) -/
  | sound {i : Instr} (val : Byte) : Effect s i (s.setSt val).advance
  /-- 42_index_memory.md R173 -/
  | bcd (x : Reg) : Effect s (.bcd x) (s.storeDigits (s.readV x)).advance
  /-- 42_index_memory.md R174 -/
  | store (x : Reg) : Effect s (.store x)
      { s with mem := (s.storeRegs (x.toNat + 1)).mem, i := (s.bumpI x).i, pc := s.pc + 2#12 }
  /-- 42_index_memory.md R175 -/
  | load (x : Reg) : Effect s (.load x)
      { s with v := (s.loadRegs (x.toNat + 1)).v, i := (s.bumpI x).i, pc := s.pc + 2#12 }
  /-- 43_display.md R190 -/
  | cls : Effect s .cls ((s.setFb 0#2048).setRedraw true).advance
  /-- 43_display.md R191, with `d` what the drawing loop leaves -/
  | drw (x y : Reg) (n : Nibble) (d : DrawState) : Effect s (.drw x y n)
      (((s.setFb d.fb).writeV Reg.F (flagByte d.collision)).setRedraw (s.redraw || d.toggled)).advance
  /-- CALL with room on the stack (40_flow.md R124) -/
  | call (nnn : Addr) (hroom : s.sp.toNat ≠ 16) : Effect s (.call nnn) ((s.push s.pc).setPc nnn)
  /-- CALL on the full stack (60_exceptions.md R224) -/
  | overflow (nnn : Addr) (hfull : s.sp.toNat = 16) : Effect s (.call nnn) (s.raise .stackOverflow)
  /-- RET with an entry on the stack (40_flow.md R122) -/
  | ret (a : Addr) (hone : 1 ≤ s.sp.toNat) : Effect s .ret (s.pop.setPc a)
  /-- RET on the empty stack (60_exceptions.md R224) -/
  | underflow (hempty : s.sp.toNat = 0) : Effect s .ret (s.raise .stackUnderflow)

theorem effect_skipIf (s : State) (i : Instr) (c : Bool) : Effect s i (s.skipIf c) := by
  rw [skipIf_eq]; exact .pc _

theorem exec_call_of_not_full (nnn : Addr) {s : State} (h : s.sp.toNat ≠ 16) :
    exec (.call nnn) s = .next ((s.push s.pc).setPc nnn) := by
  have hsp : s.sp ≠ 16#5 := by bv_omega
  rw [exec, execCall, if_neg hsp]

/-- Every instruction answers a next state, and leaves it by one of the effects. -/
theorem exec_answers_effect (s : State) (i : Instr) : ∃ t, exec i s = .next t ∧ Effect s i t := by
  cases i with
  | cls => exact ⟨_, rfl, .cls⟩
  | drw x y n => exact ⟨_, rfl, .drw x y n (s.drawSprite x y n)⟩
  | jmp nnn => exact ⟨_, rfl, .pc nnn⟩
  | jmpV0 nnn => exact ⟨_, rfl, .pc _⟩
  | seImm | sneImm | seReg | sneReg | skp | sknp => exact ⟨_, rfl, effect_skipIf s _ _⟩
  | ldImm | addImm | ldReg | orReg | andReg | xorReg | rnd | ldFromDt => exact ⟨_, rfl, .reg _ rfl⟩
  | addReg | sub | subn | shr | shl => exact ⟨_, rfl, .flag _ _ _ (.inl rfl) (.inr rfl)⟩
  | ldI | addI | ldFont => exact ⟨_, rfl, .index _⟩
  | ldDt => exact ⟨_, rfl, .delay _⟩
  | ldSt => exact ⟨_, rfl, .sound _⟩
  | bcd x => exact ⟨_, exec_bcd x s, .bcd x⟩
  | store x => exact ⟨_, exec_store_eq x s, .store x⟩
  | load x => exact ⟨_, exec_load_eq x s, .load x⟩
  | ldKey x =>
    cases hk : s.highestKey with
    | none => exact ⟨_, exec_ldKey_none hk x, .waits⟩
    | some m => exact ⟨_, exec_ldKey_some hk x, .reg _ rfl⟩
  | call nnn =>
    by_cases hfull : s.sp.toNat = 16
    · exact ⟨_, exec_call_of_full nnn hfull, .overflow nnn hfull⟩
    · exact ⟨_, exec_call_of_not_full nnn hfull, .call nnn hfull⟩
  | ret =>
    obtain hempty | hone := Nat.eq_zero_or_pos s.sp.toNat
    · exact ⟨_, exec_ret_of_empty hempty, .underflow hempty⟩
    · exact ⟨_, exec_ret_of_nonempty hone, .ret _ hone⟩

/-- The inversion of `exec`: what it answers is one of the effects. -/
theorem exec_effect {i : Instr} {s t : State} (h : exec i s = .next t) : Effect s i t := by
  obtain ⟨u, hu, heff⟩ := exec_answers_effect s i
  cases hu.symm.trans h
  exact heff

/-- The inversion of a `Step` event: nothing, the effect of the decoded instruction, or the soft failure. -/
theorem stepEvent_effect {s t : State} {k : Keys} {r : Byte} (h : transition (.step k r) s = .next t) :
    t = s ∨ (∃ i, decodeWord s.fetchWord = .instr i ∧ Effect (s.sample k r) i t) ∨
      t = (s.sample k r).unknownInstr s.fetchWord := by
  obtain ⟨-, hstep⟩ | ⟨-, i, hi, hstep⟩ | ⟨-, -, -, hstep⟩ := stepEvent_cases s k r
  · cases hstep.symm.trans h; exact .inl rfl
  · exact .inr (.inl ⟨i, hi, exec_effect (hstep.symm.trans h)⟩)
  · cases hstep.symm.trans h; exact .inr (.inr rfl)

/-- A step is one event, on the state with the queue and the sample counter moved on (log 1, log 2). -/
theorem step_eq_transition (s : State) :
    ∃ e rest n, step s = transition e { s with events := rest, sampleNo := n } := by
  cases he : s.events with
  | nil =>
    refine ⟨.step (Config.freeKeys s.sampleNo) (Config.freeRnd s.sampleNo), s.events, s.sampleNo + 1, ?_⟩
    exact step_idle he
  | cons e rest => exact ⟨e, rest, s.sampleNo, step_pending he⟩

/-! ### The invariant (10_state.md R49) -/

theorem storeDigits_wf {s : State} (h : s.mem.wf = true) (b : Byte) : (s.storeDigits b).mem.wf = true :=
  memWrite_wf (memWrite_wf (memWrite_wf h _ _) _ _) _ _

/-- The writers of RAM keep its form, CALL has room when it counts up, RET an entry when it counts down; no other
effect touches RAM or `SP`. -/
theorem effect_keeps_inv {i : Instr} {s t : State} (h : Effect s i t) (hs : s.Inv) : t.Inv := by
  obtain ⟨hwf, hsp⟩ := hs
  cases h with
  | bcd x => exact ⟨storeDigits_wf hwf _, hsp⟩
  | store x => exact ⟨storeRegs_wf hwf _, hsp⟩
  | call nnn hroom =>
    have hlt : s.sp.toNat < 16 := by omega
    exact ⟨hwf, (push_sp_toNat hlt s.pc).trans_le hlt⟩
  | ret a hone => exact ⟨hwf, (pop_sp_toNat hone).trans_le (by omega)⟩
  | _ => exact ⟨hwf, hsp⟩

/-- Settles O13: nothing is listed in RAM and the stack is empty. -/
theorem resetMeetsTheInvariant : Obligations.ResetMeetsTheInvariant :=
  ⟨reset_mem_wf, Nat.zero_le 16⟩

theorem transition_keeps_inv {e : Event} {s t : State} (h : transition e s = .next t) (hs : s.Inv) : t.Inv := by
  cases e with
  | reset => cases h; exact resetMeetsTheInvariant
  | load a b =>
    obtain ⟨hwf, hsp⟩ := hs
    cases h
    exact ⟨memWrite_wf hwf _ _, hsp⟩
  | tick => cases h; rw [tick_eq]; exact hs
  | redrawAck => cases h; exact hs
  | step k r =>
    obtain rfl | ⟨i, -, heff⟩ | rfl := stepEvent_effect h
    · exact hs
    · exact effect_keeps_inv heff hs
    · exact hs

/-- Settles O12: a step is one event, and every event keeps both parts of the invariant. -/
theorem everyStepKeepsTheInvariant : Obligations.EveryStepKeepsTheInvariant := by
  intro s t hs h
  obtain ⟨e, rest, n, heq⟩ := step_eq_transition s
  exact transition_keeps_inv (heq.symm.trans h) hs

/-! ### Totality (00_scope.md R10) -/

theorem transition_answers (e : Event) (s : State) : ∃ t, transition e s = .next t := by
  cases e with
  | reset | load | tick | redrawAck => exact ⟨_, rfl⟩
  | step k r =>
    obtain ⟨-, hstep⟩ | ⟨-, i, -, hstep⟩ | ⟨-, -, -, hstep⟩ := stepEvent_cases s k r
    · exact ⟨_, hstep⟩
    · obtain ⟨t, ht, -⟩ := exec_answers_effect (s.sample k r) i
      exact ⟨t, hstep.trans ht⟩
    · exact ⟨_, hstep⟩

/-- Settles O10: every instruction has an effect, every event answers, and a step is one event. -/
theorem everyStepAnswersANextState : Obligations.EveryStepAnswersANextState := by
  refine ⟨fun i s => ?instr, transition_answers, fun s => ?step⟩
  case instr =>
    obtain ⟨t, ht, -⟩ := exec_answers_effect s i
    exact ⟨t, ht⟩
  case step =>
    obtain ⟨e, rest, n, heq⟩ := step_eq_transition s
    rw [heq]
    exact transition_answers _ _

/-! ### Who writes what -/

/-- Settles O49: a register read after a write to another one; `VF` is a destination of the flag-first instructions
and of DRW in the table. -/
theorem registersWrittenAreTheTables : Obligations.RegistersWrittenAreTheTables := by
  intro i s t r h hr
  have hne : ∀ x, mayWrite i x → r ≠ x := fun x hx hrx => hr (hrx ▸ hx)
  cases exec_effect h with
  | reg val hx => exact (readV_writeV ..).trans (if_neg (hne _ hx))
  | flag y f g hx hF => rw [flagThenResult_readV, if_neg (hne _ hx), if_neg (hne _ hF)]
  | drw x y n d => exact (readV_writeV ..).trans (if_neg hr)
  | load x =>
    have hx : ¬ r.toNat < x.toNat + 1 := fun hlt => hr (Nat.le_of_lt_succ hlt)
    exact (loadRegs_readV s x.isLt r).trans (if_neg hx)
  | _ => rfl

theorem effect_fb {i : Instr} {s t : State} (h : Effect s i t) (hne : t.fb ≠ s.fb) :
    i = .cls ∨ ∃ x y n, i = .drw x y n := by
  cases h with
  | cls => exact .inl rfl
  | drw x y n d => exact .inr ⟨x, y, n, rfl⟩
  | _ => exact absurd rfl hne

/-- Settles O50: CLS and DRW are the effects that write the framebuffer; of the events only `Reset` and a `Step` of
one of the two do. -/
theorem framebufferWriters : Obligations.FramebufferWriters := by
  refine ⟨fun i s t h hne => effect_fb (exec_effect h) hne, fun e s t h hne => ?event⟩
  case event =>
    cases e with
    | reset => exact .inl rfl
    | load | redrawAck => cases h; exact absurd rfl hne
    | tick => cases h; exact absurd (congrArg State.fb (tick_frame s)) hne
    | step k r =>
      obtain rfl | ⟨i, hi, heff⟩ | rfl := stepEvent_effect h
      · exact absurd rfl hne
      · rw [← wordAtPc_eq_fetchWord] at hi
        obtain rfl | ⟨x, y, n, rfl⟩ := effect_fb heff hne
        · exact .inr ⟨k, r, rfl, .inl hi⟩
        · exact .inr ⟨k, r, rfl, .inr ⟨x, y, n, hi⟩⟩
      · exact absurd rfl hne

/-- No instruction clears `REDRAW`: CLS sets it, DRW can only add to it. -/
theorem effect_keeps_redraw {i : Instr} {s t : State} (h : Effect s i t) (hs : s.redraw = true) : t.redraw = true := by
  cases h with
  | cls => rfl
  | drw x y n d => exact Bool.or_eq_true_iff.2 (.inl hs)
  | _ => exact hs

/-- Settles O51: of the other events none writes `REDRAW` but a `Step`, whose instruction does not clear it. -/
theorem redrawIsClearedOnlyByAckAndReset : Obligations.RedrawIsClearedOnlyByAckAndReset := by
  intro e s t h hon hoff
  have hkept : t.redraw ≠ true := Bool.eq_false_iff.1 hoff
  cases e with
  | redrawAck => exact .inl rfl
  | reset => exact .inr rfl
  | load => cases h; exact absurd hon hkept
  | tick => cases h; exact absurd ((congrArg State.redraw (tick_frame s)).trans hon) hkept
  | step k r =>
    obtain rfl | ⟨i, -, heff⟩ | rfl := stepEvent_effect h
    · exact absurd hon hkept
    · exact absurd (effect_keeps_redraw heff hon) hkept
    · exact absurd hon hkept

/-- Settles O52: a push is an effect of CALL alone and a pop of RET alone; no other effect touches stack or pointer. -/
theorem stackWriters : Obligations.StackWriters := by
  intro i s t hsp h
  cases exec_effect h with
  | call nnn hroom =>
    have hlt : s.sp.toNat < 16 := by omega
    exact ⟨fun _ => ⟨nnn, rfl⟩, fun _ => .inl ⟨⟨nnn, rfl⟩, push_sp_toNat hlt s.pc⟩⟩
  | ret a hone =>
    have hcount : s.pop.sp.toNat + 1 = s.sp.toNat := by rw [pop_sp_toNat hone, Nat.sub_add_cancel hone]
    exact ⟨fun hne => absurd rfl hne, fun _ => .inr ⟨rfl, hcount⟩⟩
  | _ => exact ⟨fun hne => absurd rfl hne, fun hne => absurd rfl hne⟩

/-- Settles O53: the effects other than BCD's and LD [I], Vx's leave RAM, and so every byte, as it was. -/
theorem memoryWriters : Obligations.MemoryWriters := by
  refine ⟨fun i s t h => ?instr, fun e s t h => ?event⟩
  case instr =>
    cases exec_effect h with
    | bcd x => exact .inl ⟨x, rfl⟩
    | store x => exact .inr (.inl ⟨x, rfl⟩)
    | _ => exact .inr (.inr fun _ => rfl)
  case event =>
    cases e with
    | reset => exact .inl rfl
    | load a b => exact .inr (.inl ⟨a, b, rfl⟩)
    | step k r => exact .inr (.inr (.inl ⟨k, r, rfl⟩))
    | tick => cases h; exact .inr (.inr (.inr fun _ => by rw [tick_eq]; rfl))
    | redrawAck => cases h; exact .inr (.inr (.inr fun _ => rfl))

/-- Settles O54: the latch is written by the effects of a CALL on the full stack and a RET on the empty one; no effect
writes the outputs. -/
theorem onlyCallAndRetFault : Obligations.OnlyCallAndRetFault := by
  intro i s t h
  cases exec_effect h with
  | overflow nnn hfull => exact ⟨rfl, fun _ => .inl ⟨⟨nnn, rfl⟩, hfull, rfl⟩⟩
  | underflow hempty => exact ⟨rfl, fun _ => .inr ⟨rfl, hempty, rfl⟩⟩
  | _ => exact ⟨rfl, fun hne => absurd rfl hne⟩

end Sys2Proof.Machine
end

section
/-! PROOFS. One step: the decoded instruction runs (40_flow.md R120), a placed word runs next (log 17), the clocked
strobes (60_exceptions.md R228), the end of a run (70_reset_and_hazards.md R270), the `Load` event and the loader
(10_state.md R44; 70_reset_and_hazards.md R263, R266). -/

open Sys2Proof.Claims

namespace Sys2Proof.Machine

/-! ### The step runs the decoded instruction (40_flow.md R120) -/

/-- Settles O6: the event is taken off the queue, and runs the decoded instruction on its inputs. -/
theorem stepRunsTheDecodedInstruction : Obligations.StepRunsTheDecodedInstruction := by
  intro s keys rnd rest i he hf hd
  exact (step_pending he).trans (stepEvent_of_decode (s := { s with events := rest }) hf hd keys rnd)

/-- Settles O7: with an empty queue the same happens on the free inputs at the sample counter. -/
theorem idleStepSamplesFreeInputs : Obligations.IdleStepSamplesFreeInputs := by
  intro s i he hf hd
  exact (step_idle he).trans (stepEvent_of_decode (s := { s with sampleNo := s.sampleNo + 1 }) hf hd _ _)

/-! ### A placed word (log 17) -/

theorem decodeWord_of_decodeTableWord {nbits w : Nat} {i : Instr} (h : decodeTableWord nbits w = some i) :
    decodeWord (tableWord nbits w) = .instr i := by
  simp only [decodeTableWord, decode, wordOfBytes_bytes] at h
  split at h
  · next j _ hj =>
    cases h
    exact (Prod.mk.inj (Option.some.inj hj)).1
  · cases h

/-- The two bytes placed at `pc` are the two that the next step fetches; they are distinct even where they wrap. -/
theorem fetchWord_placeWord {s : State} (h : s.mem.wf = true) (nbits w : Nat) :
    (s.placeWord nbits w).fetchWord = tableWord nbits w := by
  have hwf := memWrite_wf h s.pc.toNat (highByte (tableWord nbits w))
  have hhigh : (s.placeWord nbits w).memRead s.pc.toNat = highByte (tableWord nbits w) := by
    refine (memRead_memWrite hwf ..).trans ?_
    rw [if_neg (by omega), memRead_memWrite h, if_pos rfl]
  have hlow : (s.placeWord nbits w).memRead (s.pc.toNat + 1) = lowByte (tableWord nbits w) :=
    (memRead_memWrite hwf ..).trans (if_pos rfl)
  exact (congrArg₂ wordOfBytes hhigh hlow).trans (wordOfBytes_bytes _)

/-- Settles O11: the placed word is fetched, the fault is cleared, and the `Step` put first samples the inputs that the
state holds already. -/
theorem placedWordRunsNext : Obligations.PlacedWordRunsNext := by
  intro s nbits w i hwf hi
  have hd : decodeWord (wordAtPc (s.placeWord nbits w)) = .instr i := by
    rw [wordAtPc_eq_fetchWord, fetchWord_placeWord hwf, decodeWord_of_decodeTableWord hi]
  exact stepRunsTheDecodedInstruction (s.placeWord nbits w) s.keys s.rnd s.events i rfl rfl hd

/-! ### The clocked strobes and the end of a run -/

/-- A clock with a `Step` of LD Vx, DT and a `Tick`: the register takes `DT`, then the timers count. -/
theorem run_ldFromDt_tick {s : State} {x : Reg} {k : Keys} {r : Byte} (hf : s.fault = .none)
    (hd : decodeWord (wordAtPc s) = .instr (.ldFromDt x)) (he : s.events = [.step k r, .tick]) :
    Host.Core.run Sys2Proof.core 2 s =
      .next (State.tick { ((s.sample k r).writeV x s.dt).advance with events := [] }) := by
  have hstep : step s = .next { ((s.sample k r).writeV x s.dt).advance with events := [.tick] } :=
    stepRunsTheDecodedInstruction s k r [.tick] _ he hf hd
  exact (run_succ_of_next hstep 1).trans (run_succ_of_next (step_pending (e := .tick) (rest := []) rfl) 0)

/-- Settles O47: `rst` is looked at first, and `Step` stands before `Tick` in the events of a clock. -/
theorem clockedStrobeOrder : Obligations.ClockedStrobeOrder := by
  refine ⟨fun c hc => if_pos hc, fun k r x s hf hd he => ⟨_, run_ldFromDt_tick hf hd he, ?reg, ?dt, ?events⟩⟩
  case reg => rw [tick_frame]; exact readV_writeV_same ..
  case dt => exact tick_dt_toNat _
  case events => rw [tick_frame]

/-- Settles O57: the jump sets `pc` to the value it has, and the word at `pc` stays what it was. -/
theorem selfJumpIsAFixedPoint : Obligations.SelfJumpIsAFixedPoint := by
  intro s k r ⟨hf, hd⟩
  have hword : decodeWord (wordAtPc s) = .instr (.jmp s.pc) := by rw [wordAtPc_eq_fetchWord, hd]
  exact ⟨_, stepEvent_of_decode hf hword k r, rfl, hf, hd⟩

/-! ### `Load` and the loader (10_state.md R44; 70_reset_and_hazards.md R263, R266) -/

/-- Settles O48: the event is one write of RAM. -/
theorem loadWritesOneByte : Obligations.LoadWritesOneByte := by
  intro b val s hwf
  have hread := memRead_memWrite hwf b.toNat val
  refine ⟨_, rfl, (hread _).trans (if_pos rfl), fun a ha hab => (hread a).trans (if_neg ?_), rfl⟩
  rwa [Nat.mod_eq_of_lt ha, Nat.mod_eq_of_lt b.isLt]

/-- From `s` to `t` the bytes have been placed in RAM from `a` on, addresses modulo 4096, and nothing else has
changed but the pending events. -/
structure Placed (a : Addr) (bytes : List Byte) (s t : State) : Prop where
  inside : ∀ (k : Nat) (h : k < bytes.length), t.memRead (a.toNat + k) = bytes[k]
  outside : ∀ b : Nat, (∀ k < bytes.length, b % 4096 ≠ (a.toNat + k) % 4096) → t.memRead b = s.memRead b
  frame : t = { s with mem := t.mem, events := t.events }

theorem placed_nil (a : Addr) (s : State) (later : List Event) : Placed a [] s { s with events := later } :=
  ⟨fun _ h => absurd h (Nat.not_lt_zero _), fun _ _ => rfl, rfl⟩

/-- The address after `a`, as the loader counts it, names the same byte as `a + 1`. -/
theorem succ_addr_mod (a : Addr) (k : Nat) : ((a + 1#12).toNat + k) % 4096 = (a.toNat + (k + 1)) % 4096 := by
  rw [BitVec.toNat_add, BitVec.toNat_ofNat]; omega

/-- One byte loaded at `a`, then the others from `a + 1` on; at most 4096 bytes do not reach `a` again. -/
theorem placed_cons {a : Addr} {b : Byte} {bytes : List Byte} {s t : State} (hwf : s.mem.wf = true)
    (hlen : bytes.length < 4096) (h : Placed (a + 1#12) bytes (s.load a b) t) : Placed a (b :: bytes) s t := by
  obtain ⟨hin, hout, hframe⟩ := h
  have hload := memRead_memWrite hwf a.toNat b
  refine ⟨fun k hk => ?inside, fun c hc => ?outside, hframe⟩
  case inside =>
    cases k with
    | zero =>
      have hkept : t.memRead a.toNat = (s.load a b).memRead a.toNat := hout _ fun k hk => by
        rw [succ_addr_mod]; omega
      exact hkept.trans ((hload _).trans (if_pos rfl))
    | succ k =>
      rw [← memRead_mod, ← succ_addr_mod, memRead_mod]
      exact hin k (Nat.lt_of_succ_lt_succ hk)
  case outside =>
    have hkept : t.memRead c = (s.load a b).memRead c := hout c fun k hk => by
      rw [succ_addr_mod]; exact hc (k + 1) (Nat.succ_lt_succ hk)
    exact hkept.trans ((hload c).trans (if_neg (hc 0 (Nat.succ_pos _))))

/-- The loader's events, whatever events follow them, place the bytes. -/
theorem run_loadsFrom (a : Addr) (bytes : List Byte) (rest : List Event) {s : State} (hwf : s.mem.wf = true)
    (hlen : bytes.length ≤ 4096) :
    ∃ t, Host.Core.run Sys2Proof.core (loadsFrom a bytes).length { s with events := loadsFrom a bytes ++ rest } =
      .next t ∧ State.events t = rest ∧ Placed a bytes s t := by
  induction bytes generalizing a s with
  | nil => exact ⟨_, rfl, rfl, placed_nil a s rest⟩
  | cons b bytes ih =>
    obtain ⟨t, hrun, hrest, hplaced⟩ := ih (a + 1#12) (memWrite_wf hwf a.toNat b) (Nat.le_of_succ_le hlen)
    have hload : step { s with events := loadsFrom a (b :: bytes) ++ rest } =
        .next { s.load a b with events := loadsFrom (a + 1#12) bytes ++ rest } :=
      step_pending (e := .load a b) (rest := loadsFrom (a + 1#12) bytes ++ rest) rfl
    exact ⟨t, (run_succ_of_next hload _).trans hrun, hrest, placed_cons hwf hlen hplaced⟩

theorem romLoads_of_fits {rom : List Byte} (h : rom.length ≤ 3584) :
    romLoads rom = some (loadsFrom Config.programBase rom) :=
  if_pos (decide_eq_true h)

theorem romLoads_of_too_long {rom : List Byte} (h : 3584 < rom.length) : romLoads rom = none :=
  if_neg fun hfits => absurd (of_decide_eq_true hfits) (Nat.not_le_of_lt h)

/-- Settles O16: the loader's events place the ROM from 0x200 on, and a ROM that fits does not wrap. -/
theorem loaderPlacesTheRom : Obligations.LoaderPlacesTheRom := by
  intro rom rest
  refine ⟨romLoads_of_too_long, fun hfits => ?fits⟩
  case fits =>
    obtain ⟨t, hrun, hrest, hplaced⟩ :=
      run_loadsFrom Config.programBase rom rest reset_mem_wf (hfits.trans (by decide))
    refine ⟨_, t, romLoads_of_fits hfits, hrun, hplaced.inside,
      fun a ha hout => hplaced.outside a fun k hk => ?far, ?frame⟩
    case far =>
      rw [show Config.programBase.toNat = 0x200 from rfl]
      omega
    case frame => rw [← hrest]; exact hplaced.frame

end Sys2Proof.Machine
end

section
/-! PROOFS. What no instruction reads: the sampled inputs but for their own readers (40_flow.md R120), the sound timer
(10_state.md R32) and `REDRAW` (R36). -/

open Sys2Proof.Claims

namespace Sys2Proof.Machine

/-- The state with other sampled inputs, another sound timer and another `REDRAW`. -/
def State.hide (s : State) (k : Keys) (r b : Byte) (f : Bool) : State :=
  { s with keys := k, rnd := r, st := b, redraw := f }

section hide
variable (s : State) (k : Keys) (r b : Byte) (f : Bool)

/-! The readers that the instructions use do not see the hidden fields. -/

theorem hide_skipIf (c : Bool) : (s.hide k r b f).skipIf c = (s.skipIf c).hide k r b f := by
  cases c <;> rfl

theorem hide_storeRegs (n : Nat) : (s.hide k r b f).storeRegs n = (s.storeRegs n).hide k r b f := by
  induction n with
  | zero => rfl
  | succ n ih => simp only [State.storeRegs, ih]; rfl

theorem hide_loadRegs (n : Nat) : (s.hide k r b f).loadRegs n = (s.loadRegs n).hide k r b f := by
  induction n with
  | zero => rfl
  | succ n ih => simp only [State.loadRegs, ih]; rfl

theorem hide_drawRows (x0 y0 : Byte) (n : Nat) (d : DrawState) :
    (s.hide k r b f).drawRows x0 y0 n d = s.drawRows x0 y0 n d := by
  induction n with
  | zero => rfl
  | succ n ih => simp only [State.drawRows, ih]; rfl

theorem hide_drawSprite (x y : Reg) (n : Nibble) : (s.hide k r b f).drawSprite x y n = s.drawSprite x y n :=
  hide_drawRows ..

end hide

/-- Executed with other hidden fields, an instruction answers the same state but for the hidden fields: the inputs are
the other ones, and of `ST` and `REDRAW` each is as before if it went in as before. -/
def SameAnswer (i : Instr) (s t : State) (k : Keys) (r b : Byte) (f : Bool) : Prop :=
  ∃ b' f', exec i (s.hide k r b f) = .next (t.hide k r b' f') ∧ (b = s.st → b' = t.st) ∧
    (f = s.redraw → f' = t.redraw)

/-- An instruction that neither reads nor writes a hidden field. -/
theorem sameAnswer_of_hide {i : Instr} {s t : State} {k : Keys} {r b : Byte} {f : Bool}
    (h : exec i (s.hide k r b f) = .next (t.hide k r b f)) (hst : t.st = s.st) (hredraw : t.redraw = s.redraw) :
    SameAnswer i s t k r b f :=
  ⟨b, f, h, fun hb => hb.trans hst.symm, fun hf => hf.trans hredraw.symm⟩

/-- Only the readers of the inputs see them, and no instruction sees `ST` or `REDRAW`. -/
theorem exec_sameAnswer {i : Instr} {s t : State} {k : Keys} {r : Byte} (b : Byte) (f : Bool)
    (h : exec i s = .next t) (hkeys : readsKeys i = true → k = s.keys) (hrnd : readsRnd i = true → r = s.rnd) :
    SameAnswer i s t k r b f := by
  cases i with
  | cls => cases h; exact ⟨b, true, rfl, id, fun _ => rfl⟩
  | ldSt x => cases h; exact ⟨s.readV x, f, rfl, fun _ => rfl, id⟩
  | drw x y n =>
    cases h
    refine ⟨b, f || (s.drawSprite x y n).toggled, ?_, id, congrArg (· || _)⟩
    rw [exec, execDrw, hide_drawSprite]; rfl
  | seImm | sneImm | seReg | sneReg =>
    cases h
    exact sameAnswer_of_hide (congrArg Host.Outcome.next (hide_skipIf s k r b f _)) (skipIf_st ..) (skipIf_redraw ..)
  | skp | sknp =>
    obtain rfl := hkeys rfl
    cases h
    exact sameAnswer_of_hide (congrArg Host.Outcome.next (hide_skipIf s s.keys r b f _)) (skipIf_st ..)
      (skipIf_redraw ..)
  | ldKey x =>
    obtain rfl := hkeys rfl
    cases hm : s.highestKey with
    | none =>
      cases (exec_ldKey_none hm x).symm.trans h
      exact sameAnswer_of_hide (exec_ldKey_none (s := s.hide s.keys r b f) hm x) rfl rfl
    | some m =>
      cases (exec_ldKey_some hm x).symm.trans h
      exact sameAnswer_of_hide (exec_ldKey_some (s := s.hide s.keys r b f) hm x) rfl rfl
  | rnd x nn => obtain rfl := hrnd rfl; cases h; exact sameAnswer_of_hide rfl rfl rfl
  | call nnn =>
    by_cases hfull : s.sp.toNat = 16
    · cases (exec_call_of_full nnn hfull).symm.trans h
      exact sameAnswer_of_hide (exec_call_of_full nnn (s := s.hide k r b f) hfull) rfl rfl
    · cases (exec_call_of_not_full nnn hfull).symm.trans h
      exact sameAnswer_of_hide (exec_call_of_not_full nnn (s := s.hide k r b f) hfull) rfl rfl
  | ret =>
    obtain hempty | hone := Nat.eq_zero_or_pos s.sp.toNat
    · cases (exec_ret_of_empty hempty).symm.trans h
      exact sameAnswer_of_hide (exec_ret_of_empty (s := s.hide k r b f) hempty) rfl rfl
    · cases (exec_ret_of_nonempty hone).symm.trans h
      exact sameAnswer_of_hide (exec_ret_of_nonempty (s := s.hide k r b f) hone) rfl rfl
  | store x =>
    cases (exec_store_eq x s).symm.trans h
    refine sameAnswer_of_hide ?_ rfl rfl
    rw [exec_store_eq, hide_storeRegs]; rfl
  | load x =>
    cases (exec_load_eq x s).symm.trans h
    refine sameAnswer_of_hide ?_ rfl rfl
    rw [exec_load_eq, hide_loadRegs]; rfl
  | _ => cases h; exact sameAnswer_of_hide rfl rfl rfl

/-- No instruction writes the sampled inputs. -/
theorem effect_inputs {i : Instr} {s t : State} (h : Effect s i t) : t.keys = s.keys ∧ t.rnd = s.rnd := by
  cases h <;> exact ⟨rfl, rfl⟩

/-- Settles O55: one of the two inputs is hidden, the other hidden fields are put in as they are. -/
theorem inputsReadOnlyByTheirInstructions : Obligations.InputsReadOnlyByTheirInstructions := by
  intro i s t k r h
  obtain ⟨hk, hr⟩ := effect_inputs (exec_effect h)
  refine ⟨fun hno => ?keys, fun hno => ?rnd⟩
  case keys =>
    obtain ⟨_, _, hexec, hst, hredraw⟩ := exec_sameAnswer (k := k) (r := s.rnd) s.st s.redraw h (by simp [hno])
      fun _ => rfl
    have hout : t.hide k s.rnd t.st t.redraw = { t with keys := k } := by rw [← hr]; rfl
    rw [hst rfl, hredraw rfl, hout] at hexec
    exact hexec
  case rnd =>
    obtain ⟨_, _, hexec, hst, hredraw⟩ := exec_sameAnswer (k := s.keys) (r := r) s.st s.redraw h (fun _ => rfl)
      (by simp [hno])
    have hout : t.hide s.keys r t.st t.redraw = { t with rnd := r } := by rw [← hk]; rfl
    rw [hst rfl, hredraw rfl, hout] at hexec
    exact hexec

/-- Settles O56: `ST` and `REDRAW` are hidden, the inputs are put in as they are. -/
theorem soundTimerAndRedrawAreNotReadable : Obligations.SoundTimerAndRedrawAreNotReadable := by
  intro i s t b f h
  obtain ⟨hk, hr⟩ := effect_inputs (exec_effect h)
  obtain ⟨b', f', hexec, -, -⟩ := exec_sameAnswer (k := s.keys) (r := s.rnd) b f h (fun _ => rfl) fun _ => rfl
  refine ⟨_, hexec, ?_⟩
  rw [← hk, ← hr]; rfl

end Sys2Proof.Machine
end

section
/-! PROOFS. Calls that come back and calls that nest (40_flow.md R122, R124), stores that are read back
(42_index_memory.md R174, R175) or fetched (20_memory.md R76), and a sprite drawn twice (43_display.md R191, R193). -/

open Sys2Proof.Claims

namespace Sys2Proof.Machine

/-! ### CALL and RET (40_flow.md R122, R124) -/

/-- Settles O22: RET pops what CALL pushed, which is the call site; the entries below it are not written. -/
theorem callThenRetComesBack : Obligations.CallThenRetComesBack := by
  intro nnn p s hroom
  obtain ⟨hsp, htop⟩ := push_pop s s.pc
  have hone : 1 ≤ (s.push s.pc).sp.toNat := by rw [push_sp_toNat hroom]; omega
  refine ⟨_, _, exec_call_of_room nnn hroom,
    exec_ret_of_nonempty (s := { (s.push s.pc).setPc nnn with pc := p }) hone, ?pc, hsp, fun k hk hlive => ?stack⟩
  case pc => exact (toNat_add_two _).trans (congrArg (fun a : Addr => (a.toNat + 2) % 4096) htop)
  case stack => exact (push_getElem hroom s.pc hk).trans (if_neg (Nat.ne_of_lt hlive))

/-- `m` calls to `nnn` from `nnn` are on the stack, and the next one would be executed. -/
def Nested (nnn : Addr) (m : Nat) (s : State) : Prop :=
  s.sp.toNat = m ∧ s.fault = .none ∧ s.pc = nnn ∧ ∀ (k : Nat) (h : k < 16), k < m → s.stack[k] = nnn

theorem nested_call {nnn : Addr} {m : Nat} {s : State} (h : Nested nnn m s) (hm : m < 16) :
    ∃ t, exec (.call nnn) s = .next t ∧ Nested nnn (m + 1) t := by
  obtain ⟨hsp, hf, hpc, hstack⟩ := h
  subst hsp
  refine ⟨_, exec_call_of_room nnn hm, push_sp_toNat hm s.pc, hf, rfl, fun k hk hlt => ?_⟩
  refine (push_getElem hm s.pc hk).trans ?_
  split
  · exact hpc
  · exact hstack k hk (by omega)

theorem nested_callTimes {nnn : Addr} {m n : Nat} {s : State} (h : Nested nnn m s) (hmn : m + n ≤ 16) :
    ∃ t, callTimes nnn n s = .next t ∧ Nested nnn (m + n) t := by
  induction n generalizing m s with
  | zero => exact ⟨s, rfl, h⟩
  | succ n ih =>
    obtain ⟨u, hu, hnest⟩ := nested_call h (by omega)
    obtain ⟨t, ht, hnest'⟩ := ih hnest (by omega)
    refine ⟨t, ?_, by rwa [Nat.add_right_comm] at hnest'⟩
    rw [callTimes, hu]; exact ht

/-- Settles O23: each call nests one deeper while there is room; on the full stack the next one raises. -/
theorem sixteenNestedCalls : Obligations.SixteenNestedCalls := by
  intro nnn s n hsp hf hpc hn
  have hstart : Nested nnn 0 s := ⟨congrArg BitVec.toNat hsp, hf, hpc, fun _ _ hk => absurd hk (Nat.not_lt_zero _)⟩
  obtain ⟨t, ht, hnest⟩ := nested_callTimes hstart (n := n) (by omega)
  rw [Nat.zero_add] at hnest
  obtain ⟨hsp', hf', hpc', hstack⟩ := hnest
  refine ⟨t, ht, hsp', hf', hpc', hstack, fun hfull => ⟨_, exec_call_of_full nnn (hsp'.trans hfull), ?_⟩⟩
  rw [raise_fault, hpc']

/-! ### Stores that are read again -/

/-- Settles O36: the load reads the bytes at the addresses the store wrote. -/
theorem storeThenLoadRoundTrip : Obligations.StoreThenLoadRoundTrip := by
  intro x s v' hwf
  obtain ⟨t, ht, hstored, -, hti, -⟩ := storeRegisterRange x s hwf
  obtain ⟨u, hu, hloaded, -, hui, -⟩ := loadRegisterRange x { t with i := s.i, v := v' }
  exact ⟨t, u, ht, hu, fun r hr => (hloaded r hr).trans (hstored r hr), BitVec.eq_of_toNat_eq (hui.trans hti.symm), hui⟩

theorem fetchWord_toNat (s : State) :
    s.fetchWord.toNat = (s.memRead s.pc.toNat).toNat * 256 + (s.memRead (s.pc.toNat + 1)).toNat := by
  rw [← wordAtPc_eq_fetchWord, wordAtPc, BitVec.toNat_ofNat]
  omega

/-- Addresses that agree modulo 4096 name the same byte (20_memory.md R62). -/
theorem memRead_congr (s : State) {a b : Nat} (h : a % 4096 = b % 4096) : s.memRead a = s.memRead b := by
  rw [← memRead_mod, h, memRead_mod]

/-- Settles O37: after the store `pc` stands at the two bytes that have been stored. -/
theorem storeIsSeenByTheNextFetch : Obligations.StoreIsSeenByTheNextFetch := by
  intro x r r' s t hwf h hr hr' hhigh hlow
  obtain ⟨u, hu, hstored, -, -, -, hpc⟩ := storeRegisterRange x s hwf
  cases hu.symm.trans h
  have hpc : t.pc.toNat = (s.pc.toNat + 2) % 4096 := hpc
  have hbyte : t.memRead t.pc.toNat = s.readV r := (memRead_congr t (by omega)).trans (hstored r hr)
  have hbyte' : t.memRead (t.pc.toNat + 1) = s.readV r' := (memRead_congr t (by omega)).trans (hstored r' hr')
  rw [fetchWord_toNat, hbyte, hbyte']

/-! ### A sprite drawn twice (43_display.md R191, R193) -/

theorem flagByte_eq_one_iff {c : Bool} : flagByte c = 1 ↔ c = true := by
  cases c <;> decide

/-- DRW leaves the framebuffer of the drawing loop, and the sprite where and as it was. -/
theorem exec_drw_eq (x y : Reg) (n : Nibble) (s : State) :
    ∃ t, exec (.drw x y n) s = .next t ∧ t.fb = (s.drawSprite x y n).fb ∧ t.i = s.i ∧ t.mem = s.mem :=
  ⟨_, rfl, rfl, rfl, rfl⟩

/-- The cells a sprite lights depend on `I`, RAM and the two coordinates. -/
theorem lit_congr {s t : State} {x y : Reg} (n : Nibble) (hi : t.i = s.i) (hmem : t.mem = s.mem)
    (hx : t.readV x = s.readV x) (hy : t.readV y = s.readV y) (k : Nat) : lit t x y n k ↔ lit s x y n k := by
  have hbit : ∀ r c, spriteBit t r c ↔ spriteBit s r c := fun r c => by
    simp only [spriteBit, State.memRead, hi, hmem]
  simp only [lit, hbit, hx, hy]

/-- Settles O40: a lit cell is toggled twice; the second draw hits the lit cells that the first one turned on. -/
theorem drawTwiceRestores : Obligations.DrawTwiceRestores := by
  intro x y n s
  obtain ⟨t, ht, hfb, hi, hmem⟩ := exec_drw_eq x y n s
  refine ⟨t, ht, fun v' hx hy => ?_⟩
  have hlit : ∀ k, lit { t with v := v' } x y n k ↔ lit s x y n k := lit_congr n hi hmem hx hy
  have hfirst : ∀ k < 2048, (t.fb.getLsbD k = true ↔
      (s.fb.getLsbD k = true ∧ ¬ lit s x y n k) ∨ (s.fb.getLsbD k = false ∧ lit s x y n k)) := fun k hk => by
    rw [hfb, drawSprite_cell s x y n hk]
  obtain ⟨u, hu, hfb', -⟩ := exec_drw_eq x y n { t with v := v' }
  refine ⟨u, hu, BitVec.eq_of_getLsbD_eq fun k hk => ?restored, ?collision⟩
  case restored =>
    have hsecond := drawSprite_cell { t with v := v' } x y n hk
    rw [hfb', Bool.eq_iff_iff, hsecond, hlit, Bool.eq_false_iff, ne_eq, hfirst k hk, Bool.eq_false_iff]
    tauto
  case collision =>
    rw [exec_drw_vf hu, flagByte_eq_one_iff, drawSprite_collision]
    refine exists_congr fun k => and_congr_right fun hk => ?_
    rw [hlit, hfirst k hk]
    tauto

end Sys2Proof.Machine
end
